-- ==== Sys2Proof/Word.lean ====
section
/-! DEFINITION. The word types of the engine (spec 00_scope R6, R7): bytes, 32-bit words, byte strings, and the
fixed-length strings whose lengths the source fixes. No operation stands here: byte order, slicing and arithmetic are in
Sys2Proof/Machine/Operands.lean. -/

namespace Sys2Proof

/-- A byte is 8 bits (00_scope R7). -/
abbrev Byte := BitVec 8

/-- The ChaCha20 word, 32 bits (00_scope R6, R8). -/
abbrev Word := BitVec 32

/-- A byte string of any length, indexed from 0 (00_scope R7). -/
abbrev Bytes := List Byte

/-- A key, exactly 32 bytes (30_encoding R80). -/
abbrev Key := Vector Byte 32

/-- A nonce or a nonce prefix, exactly 12 bytes (30_encoding R81). -/
abbrev Nonce := Vector Byte 12

/-- A one-time Poly1305 key, exactly 32 bytes (30_encoding R86). -/
abbrev Otk := Vector Byte 32

/-- A tag, exactly 16 bytes (30_encoding R88). -/
abbrev Tag := Vector Byte 16

/-- A keystream block, exactly 64 bytes (30_encoding R84). -/
abbrev Block := Vector Byte 64

/-- The working matrix, sixteen words: word `4 * row + col` is the one in row `row`, column `col` (10_state R25). -/
abbrev Matrix := Vector Word 16

end Sys2Proof
end

