-- ==== Sys2Proof/Machine/Operands.lean ====
section
/-! DEFINITION. Operand forms: byte order, slicing and padding of byte strings, and the 32-bit arithmetic of the ChaCha20
core (spec 00_scope R8 to R13; 20_memory R50, R52; 30_encoding section 1). Byte order is decided here and nowhere else. -/

namespace Sys2Proof.Machine

/-- `LEn(b)`: the little-endian value of a byte string of any length; 0 for the empty one (00_scope R10). -/
def leNat : Bytes → Nat
  | [] => 0
  | b :: bs => b.toNat + 256 * leNat bs

/-- `ToLE(v, n)`: the `n` little-endian bytes of `v` (00_scope R10). -/
def toLE (v : Nat) : Nat → Bytes
  | 0 => []
  | n + 1 => BitVec.ofNat 8 v :: toLE (v / 256) n

/-- `ToBE(v, n)`: the `n` bytes of `v`, most significant first (00_scope R10). -/
def toBE (v n : Nat) : Bytes := (toLE v n).reverse

/-- `MemRead(buf + off, n)`: the `n` bytes of a buffer from an offset on (00_scope R13, 20_memory R50). -/
def memRead (buf : Bytes) (off n : Nat) : Bytes := (buf.drop off).take n

/-- `MemWrite(buf + off, len(v), v)`: the buffer with the bytes of `v` from an offset on (00_scope R13). No byte outside the
buffer exists, so none is written (20_memory R50). -/
def memWrite (buf : Bytes) (off : Nat) (v : Bytes) : Bytes :=
  buf.take off ++ v.take (buf.length - off) ++ buf.drop (off + v.length)

/-- `LE32(b[4j .. 4j+4))`: word `j` of a byte string (00_scope R10; 30_encoding R80, R81). -/
def wordAt (b : Bytes) (j : Nat) : Word := BitVec.ofNat 32 (leNat (memRead b (4 * j) 4))

/-- `ROTL32(v, n)`: bit `i` goes to bit `(i + n) mod 32` (00_scope R9). -/
def rotl32 (v : Word) (n : Nat) : Word := (v <<< n) ||| (v >>> (32 - n))

/-- `PadLen(n)`: how many zero bytes bring a string of `n` bytes up to a multiple of 16 (00_scope R12). -/
def padLen (n : Nat) : Nat := (16 - n % 16) % 16

/-- `0^n`: `n` zero bytes (00_scope R7). -/
def zeros (n : Nat) : Bytes := List.replicate n 0

/-- The byte-wise exclusive OR of two byte strings, as long as the shorter one (20_memory R55). -/
def xorBytes (a b : Bytes) : Bytes := List.zipWith (· ^^^ ·) a b

/-- The first `k` pieces of `n` bytes of a byte string, the last of them shorter where the string ends. -/
def pieces (n : Nat) : Nat → Bytes → List Bytes
  | 0, _ => []
  | k + 1, b => b.take n :: pieces n k (b.drop n)

/-- A byte string cut into `ceil(len / n)` pieces, all of `n` bytes except possibly the last (42_poly1305 R163,
20_memory R55). The empty string has no pieces. -/
def blocksOf (n : Nat) (b : Bytes) : List Bytes := pieces n ((b.length + (n - 1)) / n) b

/-- A list of exactly `n` things, as a vector. -/
def vecOf {α : Type} {n : Nat} (l : List α) (h : l.length = n) : Vector α n := ⟨l.toArray, h⟩

/-- A byte string as a fixed-length one, where it has that length. -/
def vec? (n : Nat) (b : Bytes) : Option (Vector Byte n) := if h : b.length = n then some (vecOf b h) else none

theorem toLE_length (v n : Nat) : (toLE v n).length = n := by
  induction n generalizing v with
  | zero => rfl
  | succ n ih => simp [toLE, ih]

theorem toBE_length (v n : Nat) : (toBE v n).length = n := by simp [toBE, toLE_length]

/-- The fixed-length form of `ToLE`. -/
def toLEVec (v n : Nat) : Vector Byte n := vecOf (toLE v n) (toLE_length v n)

/-- The first `n` bytes of a longer fixed-length string. -/
def firstBytes {m : Nat} (n : Nat) (b : Vector Byte m) (h : n ≤ m) : Vector Byte n :=
  vecOf (memRead b.toList 0 n) (by simp [memRead]; omega)

/-- The byte-wise exclusive OR of two strings of one fixed length (43_aead R184). -/
def xorVec {n : Nat} (a b : Vector Byte n) : Vector Byte n :=
  vecOf (xorBytes a.toList b.toList) (by simp [xorBytes])

/-- The byte string of `n` zeros, fixed length (10_state R33). -/
def zeroVec (n : Nat) : Vector Byte n := Vector.replicate n 0

end Sys2Proof.Machine
end

