-- ==== Sys2Proof/Config.lean ====
section
/-! DEFINITION. What is fixed for one engine and does not change as it runs: the length bounds (spec 00_scope R6), the
parameter OPEN_FAIL_DST (43_aead R205), and the free values: opaque constants, with no body, for what the spec leaves
unspecified (93_implementation_defined U2, U7). Nothing can be proved about the value of an opaque constant. -/

namespace Sys2Proof

/-- MAX_MSG: the largest plaintext or ciphertext length in bytes, `(2^32 − 1) × 64` (43_aead R199). -/
def Config.maxMsg : Nat := (2 ^ 32 - 1) * 64

/-- MAX_AAD: the largest associated-data length in bytes, `2^64 − 1` (43_aead R193). -/
def Config.maxAad : Nat := 2 ^ 64 - 1

/-- The two outcomes the source allows for the destination of an OPEN whose tag is wrong (43_aead R205). -/
inductive OpenFailDst where
  | untouched
  | zeroed
deriving DecidableEq, Repr, Inhabited

/-- OPEN_FAIL_DST, the engine's own choice. DESIGN CHOICE, safe (log 8): the parameter is carried, with no body, so that a
claim holds for both values (43_aead R205, U2). -/
opaque Config.openFailDst : OpenFailDst

/-! The free values of the scratch registers: what each holds once a command has ended, or after a reset, is unspecified
(10_state R25 to R28, R33, U7). Each is applied to the counter `State.freeCount`. DESIGN CHOICE, safe (log 6). -/

/-- W after a command: unspecified (10_state R25). -/
opaque Config.freeW : Nat → Matrix
/-- W0 after a command: unspecified (10_state R25). -/
opaque Config.freeW0 : Nat → Matrix
/-- S.nonce after a command: unspecified (10_state R26). -/
opaque Config.freeNonce : Nat → Nonce
/-- S.ctr after a command: unspecified (10_state R26). -/
opaque Config.freeCtr : Nat → Word
/-- S.ovf after a command: unspecified (10_state R26). -/
opaque Config.freeOvf : Nat → Bool
/-- S.otk after a command: unspecified (10_state R26). -/
opaque Config.freeOtk : Nat → Otk
/-- P.r after a command: unspecified (10_state R33, U7). -/
opaque Config.freeR : Nat → BitVec 128
/-- P.s after a command: unspecified (10_state R33, U7). -/
opaque Config.freeS : Nat → BitVec 128
/-- P.acc after a command: unspecified (10_state R33, U7). -/
opaque Config.freeAcc : Nat → BitVec 130
/-- S.tag after a command: unspecified (10_state R33, U7). -/
opaque Config.freeTag : Nat → Tag
/-- S.diff after a command: unspecified (10_state R33, U7). -/
opaque Config.freeDiff : Nat → Byte

end Sys2Proof
end

