-- ==== Sys2Proof/Syntax.lean ====
section
/-! DEFINITION. The operations of the engine, one constructor for each row of spec/opcode_table.json: the seven commands
the host can issue (30_encoding R100) and the fourteen micro-operations (30_encoding R102). Beside them, what stands
outside the machine before it is decoded: operand values (30_encoding R101), a packet (a code and its operands), the port it
comes in by, and the events the engine takes one at a time. -/

namespace Sys2Proof

/-- One operation with its operands. Operands whose length the constructor checks are byte strings of any length; operands
whose length is fixed are vectors (30_encoding R100, R102). -/
inductive Instr where
  /-- CTX_INIT (43_aead R180): `pre` is the nonce prefix. -/
  | ctxInit (key pre : Bytes)
  /-- CTX_DESTROY (43_aead R182). -/
  | ctxDestroy
  /-- SEAL (43_aead R200). -/
  | sealRecord (seq : BitVec 64) (aad plaintext : Bytes)
  /-- OPEN (43_aead R203): `dst` is the destination buffer as the host presents it, or null, for in place. -/
  | openRecord (seq : BitVec 64) (dst : Option Bytes) (aad ctt : Bytes)
  /-- KSG_INIT (41_keystream_generator R140). -/
  | ksgInit (key nonce : Bytes) (ctr0 : Word)
  /-- KSG_NEXT (41_keystream_generator R143). -/
  | ksgNext
  /-- KSG_DESTROY (41_keystream_generator R148). -/
  | ksgDestroy
  /-- QR (40_chacha20_core R120): four indices into W. -/
  | qr (a b c d : Fin 16)
  /-- DROUND (40_chacha20_core R122). -/
  | dround
  /-- CC20_INIT (40_chacha20_core R124). -/
  | cc20Init (key : Key) (ctr : Word) (nonce : Nonce)
  /-- CC20_BLOCK (40_chacha20_core R126). -/
  | cc20Block (key : Key) (ctr : Word) (nonce : Nonce)
  /-- KS_XOR (41_keystream_generator R150). -/
  | ksXor (key : Key) (nonce : Nonce) (ctr0 : Word) (data : Bytes)
  /-- P1305_CLAMP (42_poly1305 R160). -/
  | p1305Clamp (otk : Otk)
  /-- P1305_BLOCK (42_poly1305 R162). -/
  | p1305Block (m : Bytes)
  /-- P1305_FINAL (42_poly1305 R164). -/
  | p1305Final
  /-- P1305_MAC (42_poly1305 R166). -/
  | p1305Mac (otk : Otk) (msg : Bytes)
  /-- AEAD_NONCE (43_aead R184). -/
  | aeadNonce (pre : Nonce) (seq : BitVec 64)
  /-- AEAD_OTK (43_aead R186). -/
  | aeadOtk (key : Key) (nonce : Nonce)
  /-- AEAD_MACDATA (43_aead R193). -/
  | aeadMacdata (aad ct : Bytes)
  /-- AEAD_TAG (43_aead R194). -/
  | aeadTag (key : Key) (nonce : Nonce) (aad ct : Bytes)
  /-- TAG_EQ (43_aead R196). -/
  | tagEq (a b : Tag)
deriving DecidableEq, Repr

/-- The shapes an operand value can have (30_encoding R101); `index` is an index into W (30_encoding R102). -/
inductive Operand where
  | bytes (b : Bytes)
  | u32 (v : BitVec 32)
  | u64 (v : BitVec 64)
  | destination (d : Option Bytes)
  | index (i : Fin 16)
deriving DecidableEq, Repr

/-- An 8-bit code followed by its operands (30_encoding R100). No serial layout of the operands is defined
(30_encoding R101), so they are typed values. -/
structure Packet where
  code : Byte
  operands : List Operand
deriving DecidableEq, Repr

/-- Where a packet comes in. The host port takes the seven command codes and nothing else (30_encoding R103). The sequencer
port is the engine's own: it takes the fourteen micro-operation labels (30_encoding R102; DESIGN CHOICE, log 1). -/
inductive Port where
  | host
  | sequencer
deriving DecidableEq, Repr

/-- What the engine can be presented with, one at a time (70_reset_and_hazards R270 rows 1 and 3). -/
inductive Event where
  | present (port : Port) (p : Packet)
  | reset
deriving DecidableEq, Repr

/-- Why a packet stands for no operation. -/
inductive DecodeError where
  /-- The code is 0x00 or in 0x08 to 0x7F at the host port (30_encoding R103). -/
  | unassignedCode (code : Byte)
  /-- The code has bit 7 set and the host presents it (30_encoding R102, R103). -/
  | notHostIssuable (code : Byte)
  /-- The sequencer presents a code that is no micro-operation label (30_encoding R102). -/
  | notALabel (code : Byte)
  /-- The operands are not those of the code's row (30_encoding R100, R102). -/
  | operandShape (code : Byte)
  /-- The operands are of the right shape and outside their domain (93_implementation_defined U10). -/
  | outsideDomain (code : Byte)
deriving DecidableEq, Repr

end Sys2Proof
end

