-- ==== Sys2Proof/WellFormed.lean ====
section
/-! DEFINITION. The domain of each operation's operands (93_implementation_defined U10): what the types of Sys2Proof/Syntax.lean
do not already say. An operand outside its domain is refused (60_exceptions R220, R233; log 13). -/

namespace Sys2Proof

/-- The domain of an associated-data operand: its length fits the 8-byte length field (43_aead R193). -/
def aadInDomain (aad : Bytes) : Bool := decide (aad.length ≤ Config.maxAad)

/-- The domain of a destination operand of OPEN: null, or exactly `len(ctt) − 16` bytes (20_memory R51). An input of fewer
than 16 bytes has no ciphertext, and is MalformedInput whatever the destination is (43_aead R207). -/
def destinationInDomain (dst : Option Bytes) (ctt : Bytes) : Bool :=
  decide (ctt.length < 16) ||
    match dst with
    | none => true
    | some d => decide (d.length = ctt.length - 16)

/-- The domain of QR's indices: four distinct ones (40_chacha20_core R120). -/
def indicesDistinct (a b c d : Fin 16) : Bool :=
  decide (a ≠ b ∧ a ≠ c ∧ a ≠ d ∧ b ≠ c ∧ b ≠ d ∧ c ≠ d)

/-- Every operand of the operation is in its domain. A key, nonce or message of a wrong length is NOT outside the domain of
a command that checks it: that gives an error result or a fault. -/
def Instr.wellFormed : Instr → Bool
  | .ctxInit _ _ => true
  | .ctxDestroy => true
  | .sealRecord _ aad _ => aadInDomain aad
  | .openRecord _ dst aad ctt => aadInDomain aad && destinationInDomain dst ctt
  | .ksgInit _ _ _ => true
  | .ksgNext => true
  | .ksgDestroy => true
  | .qr a b c d => indicesDistinct a b c d
  | .dround => true
  | .cc20Init _ _ _ => true
  | .cc20Block _ _ _ => true
  | .ksXor _ _ _ _ => true
  | .p1305Clamp _ => true
  | .p1305Block m => decide (1 ≤ m.length ∧ m.length ≤ 16)
  | .p1305Final => true
  | .p1305Mac _ _ => true
  | .aeadNonce _ _ => true
  | .aeadOtk _ _ => true
  | .aeadMacdata aad ct => aadInDomain aad && decide (ct.length ≤ Config.maxMsg)
  | .aeadTag _ _ aad ct => aadInDomain aad && decide (ct.length ≤ Config.maxMsg)
  | .tagEq _ _ => true

end Sys2Proof
end

