-- ==== Sys2Proof/Decode.lean ====
section
/-! DEFINITION. From a packet to an operation, total and rejecting by name, and back (spec 30_encoding R100 to R103). The
host port takes the command codes 0x01 to 0x07 and nothing else; the sequencer port takes the fourteen labels. After the
decoder, the encoder, and the host pipeline's reading of a table word. -/

namespace Sys2Proof

open Sys2Proof.Machine (vec?)

/-- The command codes (30_encoding R100). -/
def isCommandCode (code : Byte) : Bool := decide (1 ≤ code.toNat ∧ code.toNat ≤ 7)

/-- The micro-operation labels (30_encoding R102). -/
def isLabel (code : Byte) : Bool :=
  decide (code.toNat ∈ [0x80, 0x81, 0x82, 0x83, 0x88, 0x90, 0x91, 0x92, 0x93, 0xA0, 0xA1, 0xA2, 0xA3, 0xA4])

/-- A command from its code and its operands, where they have the shapes of the code's row (30_encoding R100, R101). -/
def commandOf (code : Byte) (operands : List Operand) : Option Instr :=
  match code.toNat with
  | 0x01 => match operands with
    | [.bytes key, .bytes pre] => some (.ctxInit key pre)
    | _ => none
  | 0x02 => match operands with
    | [] => some .ctxDestroy
    | _ => none
  | 0x03 => match operands with
    | [.u64 seq, .bytes aad, .bytes plaintext] => some (.sealRecord seq aad plaintext)
    | _ => none
  | 0x04 => match operands with
    | [.u64 seq, .destination dst, .bytes aad, .bytes ctt] => some (.openRecord seq dst aad ctt)
    | _ => none
  | 0x05 => match operands with
    | [.bytes key, .bytes nonce, .u32 ctr0] => some (.ksgInit key nonce ctr0)
    | _ => none
  | 0x06 => match operands with
    | [] => some .ksgNext
    | _ => none
  | 0x07 => match operands with
    | [] => some .ksgDestroy
    | _ => none
  | _ => none

/-- A micro-operation from its label and its operands, where they have the shapes of the label's row (30_encoding R102). -/
def microOperationOf (label : Byte) (operands : List Operand) : Option Instr :=
  match label.toNat with
  | 0x80 => match operands with
    | [.index a, .index b, .index c, .index d] => some (.qr a b c d)
    | _ => none
  | 0x81 => match operands with
    | [] => some .dround
    | _ => none
  | 0x82 => match operands with
    | [.bytes key, .u32 ctr, .bytes nonce] =>
      (vec? 32 key).bind fun k => (vec? 12 nonce).map fun n => .cc20Init k ctr n
    | _ => none
  | 0x83 => match operands with
    | [.bytes key, .u32 ctr, .bytes nonce] =>
      (vec? 32 key).bind fun k => (vec? 12 nonce).map fun n => .cc20Block k ctr n
    | _ => none
  | 0x88 => match operands with
    | [.bytes key, .bytes nonce, .u32 ctr0, .bytes data] =>
      (vec? 32 key).bind fun k => (vec? 12 nonce).map fun n => .ksXor k n ctr0 data
    | _ => none
  | 0x90 => match operands with
    | [.bytes otk] => (vec? 32 otk).map fun k => .p1305Clamp k
    | _ => none
  | 0x91 => match operands with
    | [.bytes m] => some (.p1305Block m)
    | _ => none
  | 0x92 => match operands with
    | [] => some .p1305Final
    | _ => none
  | 0x93 => match operands with
    | [.bytes otk, .bytes msg] => (vec? 32 otk).map fun k => .p1305Mac k msg
    | _ => none
  | 0xA0 => match operands with
    | [.bytes pre, .u64 seq] => (vec? 12 pre).map fun p => .aeadNonce p seq
    | _ => none
  | 0xA1 => match operands with
    | [.bytes key, .bytes nonce] => (vec? 32 key).bind fun k => (vec? 12 nonce).map fun n => .aeadOtk k n
    | _ => none
  | 0xA2 => match operands with
    | [.bytes aad, .bytes ct] => some (.aeadMacdata aad ct)
    | _ => none
  | 0xA3 => match operands with
    | [.bytes key, .bytes nonce, .bytes aad, .bytes ct] =>
      (vec? 32 key).bind fun k => (vec? 12 nonce).map fun n => .aeadTag k n aad ct
    | _ => none
  | 0xA4 => match operands with
    | [.bytes a, .bytes b] => (vec? 16 a).bind fun x => (vec? 16 b).map fun y => .tagEq x y
    | _ => none
  | _ => none

/-- An operation whose shape was read, or the reason it is none: its shape is wrong or an operand is outside its domain. -/
def checkDecoded (code : Byte) : Option Instr → Except DecodeError Instr
  | none => .error (.operandShape code)
  | some i => if i.wellFormed then .ok i else .error (.outsideDomain code)

/-- The host port's decoder: one of the seven commands or an error by name (30_encoding R103). -/
def decodeCommand (p : Packet) : Except DecodeError Instr :=
  if isCommandCode p.code then checkDecoded p.code (commandOf p.code p.operands)
  else if p.code.msb then .error (.notHostIssuable p.code)
  else .error (.unassignedCode p.code)

/-- The sequencer port's decoder: one of the fourteen micro-operations or an error by name (30_encoding R102). -/
def decodeLabel (p : Packet) : Except DecodeError Instr :=
  if isLabel p.code then checkDecoded p.code (microOperationOf p.code p.operands)
  else .error (.notALabel p.code)

/-- The decoder of a port. -/
def decode : Port → Packet → Except DecodeError Instr
  | .host, p => decodeCommand p
  | .sequencer, p => decodeLabel p

/-- The port an operation is presented at: the host's for the seven commands (30_encoding R100), the sequencer's for the
micro-operations (R102). -/
def Instr.port : Instr → Port
  | .ctxInit _ _ => .host
  | .ctxDestroy => .host
  | .sealRecord _ _ _ => .host
  | .openRecord _ _ _ _ => .host
  | .ksgInit _ _ _ => .host
  | .ksgNext => .host
  | .ksgDestroy => .host
  | .qr _ _ _ _ => .sequencer
  | .dround => .sequencer
  | .cc20Init _ _ _ => .sequencer
  | .cc20Block _ _ _ => .sequencer
  | .ksXor _ _ _ _ => .sequencer
  | .p1305Clamp _ => .sequencer
  | .p1305Block _ => .sequencer
  | .p1305Final => .sequencer
  | .p1305Mac _ _ => .sequencer
  | .aeadNonce _ _ => .sequencer
  | .aeadOtk _ _ => .sequencer
  | .aeadMacdata _ _ => .sequencer
  | .aeadTag _ _ _ _ => .sequencer
  | .tagEq _ _ => .sequencer

/-- The packet of an operation: its code (30_encoding R100, R102) and its operands in the row's order. -/
def encode : Instr → Packet
  | .ctxInit key pre => ⟨0x01, [.bytes key, .bytes pre]⟩
  | .ctxDestroy => ⟨0x02, []⟩
  | .sealRecord seq aad plaintext => ⟨0x03, [.u64 seq, .bytes aad, .bytes plaintext]⟩
  | .openRecord seq dst aad ctt => ⟨0x04, [.u64 seq, .destination dst, .bytes aad, .bytes ctt]⟩
  | .ksgInit key nonce ctr0 => ⟨0x05, [.bytes key, .bytes nonce, .u32 ctr0]⟩
  | .ksgNext => ⟨0x06, []⟩
  | .ksgDestroy => ⟨0x07, []⟩
  | .qr a b c d => ⟨0x80, [.index a, .index b, .index c, .index d]⟩
  | .dround => ⟨0x81, []⟩
  | .cc20Init key ctr nonce => ⟨0x82, [.bytes key.toList, .u32 ctr, .bytes nonce.toList]⟩
  | .cc20Block key ctr nonce => ⟨0x83, [.bytes key.toList, .u32 ctr, .bytes nonce.toList]⟩
  | .ksXor key nonce ctr0 data => ⟨0x88, [.bytes key.toList, .bytes nonce.toList, .u32 ctr0, .bytes data]⟩
  | .p1305Clamp otk => ⟨0x90, [.bytes otk.toList]⟩
  | .p1305Block m => ⟨0x91, [.bytes m]⟩
  | .p1305Final => ⟨0x92, []⟩
  | .p1305Mac otk msg => ⟨0x93, [.bytes otk.toList, .bytes msg]⟩
  | .aeadNonce pre seq => ⟨0xA0, [.bytes pre.toList, .u64 seq]⟩
  | .aeadOtk key nonce => ⟨0xA1, [.bytes key.toList, .bytes nonce.toList]⟩
  | .aeadMacdata aad ct => ⟨0xA2, [.bytes aad, .bytes ct]⟩
  | .aeadTag key nonce aad ct => ⟨0xA3, [.bytes key.toList, .bytes nonce.toList, .bytes aad, .bytes ct]⟩
  | .tagEq a b => ⟨0xA4, [.bytes a.toList, .bytes b.toList]⟩

/-- The port whose codes have this bit 7: the labels are the codes with bit 7 set (30_encoding R102). -/
def portOfCode (code : Byte) : Port := if code.msb then .sequencer else .host

/-- Operands of zeros for a code. The table gives operands no bits and the spec no serial layout (30_encoding R101), so a
table word has none; each operand is zero, null or a string of zero bytes of the length its row names (of no bytes where any
length will do, of one byte for a block), and QR's indices are its first tuple, because four zeros are not distinct
(40_chacha20_core R122). DESIGN CHOICE, safe (log 12): used by `decodeTableWord` and `withFetchWord` only. -/
def zeroOperands (code : Byte) : List Operand :=
  let bytes (n : Nat) : Operand := .bytes (List.replicate n 0)
  match code.toNat with
  | 0x01 => [bytes 32, bytes 12]
  | 0x03 => [.u64 0, bytes 0, bytes 0]
  | 0x04 => [.u64 0, .destination none, bytes 0, bytes 0]
  | 0x05 => [bytes 32, bytes 12, .u32 0]
  | 0x80 => [.index 0, .index 4, .index 8, .index 12]
  | 0x82 => [bytes 32, .u32 0, bytes 12]
  | 0x83 => [bytes 32, .u32 0, bytes 12]
  | 0x88 => [bytes 32, bytes 12, .u32 0, bytes 0]
  | 0x90 => [bytes 32]
  | 0x91 => [bytes 1]
  | 0x93 => [bytes 32, bytes 0]
  | 0xA0 => [bytes 12, .u64 0]
  | 0xA1 => [bytes 32, bytes 12]
  | 0xA2 => [bytes 0, bytes 0]
  | 0xA3 => [bytes 32, bytes 12, bytes 0, bytes 0]
  | 0xA4 => [bytes 16, bytes 16]
  | _ => []

/-- The packet of a table word: its code is the word's low 8 bits (30_encoding R100). -/
def packetOfTableWord (w : Nat) : Packet := ⟨BitVec.ofNat 8 w, zeroOperands (BitVec.ofNat 8 w)⟩

/-- What the decoder reads from a table word, at the port its bit 7 names; a word with a bit set above the code has no
operation, because no serial layout of operands is defined (30_encoding R101). -/
def decodeTableWord (nbits w : Nat) : Option Instr :=
  if 8 ≤ nbits ∧ w < 256 then
    match decode (portOfCode (BitVec.ofNat 8 w)) (packetOfTableWord w) with
    | .ok i => some i
    | .error _ => none
  else none

end Sys2Proof
end

