-- ==== Sys2Proof/Machine/Flags.lean ====
section
/-! DEFINITION. Every one-bit result the engine computes. It has no arithmetic flags (10_state R29): what there is are the
overflow bit of a block counter (KSG.ovf and S.ovf) and the accumulator S.diff of the tag comparison. -/

namespace Sys2Proof.Machine

/-- The largest block counter, 0xFFFFFFFF: it has no next value (41_keystream_generator R143). -/
def lastCounter : Word := 0xFFFFFFFF#32

/-- The counter after a block: one more, and unchanged where there is no next value: it never wraps
(41_keystream_generator R143, R146, R150). -/
def advanceCtr (ctr : Word) : Word := if ctr = lastCounter then ctr else ctr + 1

/-- The overflow bit after a block: set once the block with the last counter has been produced
(41_keystream_generator R143, R146, R150). -/
def advanceOvf (ctr : Word) (ovf : Bool) : Bool := if ctr = lastCounter then true else ovf

/-- S.diff after the comparison: the OR of the sixteen byte differences, every byte visited (43_aead R196). -/
def tagDiff (a b : Tag) : Byte :=
  (xorBytes a.toList b.toList).foldl (fun diff x => diff ||| x) 0

end Sys2Proof.Machine
end

