-- ==== Sys2Proof/Machine/State.lean ====
section
/-! DEFINITION. The state of the engine (spec 10_state): the two slots, FAULT, PHASE and every scratch register, as plain
data; beside them the model's own fields (what the host has presented, what it has been answered, the value bus of
stand-alone micro-operations, the counter of free values). Then the reasons a step can stop, and the state after reset. -/

namespace Sys2Proof.Machine

/-- The AEAD context slot CTX (10_state R21). `pre` is CTX.prefix. -/
structure CtxSlot where
  valid : Bool
  key : Key
  pre : Nonce
deriving DecidableEq, Repr, Inhabited

/-- The raw keystream generator slot KSG (10_state R22). -/
structure KsgSlot where
  valid : Bool
  key : Key
  nonce : Nonce
  ctr : Word
  ovf : Bool
deriving DecidableEq, Repr, Inhabited

/-- The content of FAULT: none, or the hard failure that halted the engine (10_state R23). -/
inductive FaultReg where
  | none
  | counterOverflow
deriving DecidableEq, Repr, Inhabited

/-- The content of PHASE (10_state R24). -/
inductive Phase where
  | idle
  | check
  | nonce
  | otk
  | mask
  | mac
  | compare
  | release
  | fail
  | halt
deriving DecidableEq, Repr, Inhabited

/-- The scratch registers: W and W0 (10_state R25), S.nonce, S.ctr, S.ovf, S.otk (R26), P.r, P.s, P.acc (R27), S.tag and
S.diff (R28). -/
structure Scratch where
  w : Matrix
  w0 : Matrix
  nonce : Nonce
  ctr : Word
  ovf : Bool
  otk : Otk
  r : BitVec 128
  s : BitVec 128
  acc : BitVec 130
  tag : Tag
  diff : Byte
deriving DecidableEq, Repr, Inhabited

/-- The result of a command (30_encoding R104). -/
inductive Result where
  | ok
  | invalidKeyLength
  | invalidNonceLength
  | malformedInput
  | authenticationFailure
deriving DecidableEq, Repr, Inhabited

/-- What the host gets for one command: its result, its output bytes where it has them, and for OPEN what the destination
buffer (or, where it is null, the ciphertext buffer) then holds (70_reset_and_hazards R283, 20_memory R57). -/
structure Response where
  result : Result
  output : Option Bytes
  buffer : Option Bytes
deriving DecidableEq, Repr, Inhabited

/-- What a stand-alone micro-operation returns (30_encoding R102). -/
inductive BusValue where
  | bytes (b : Bytes)
  | verdict (equal : Bool)
deriving DecidableEq, Repr, Inhabited

end Sys2Proof.Machine

namespace Sys2Proof.Machine

/-- The whole state. `ctx`, `ksg`, `faultReg`, `phase` and `scratch` are the spec's (10_state R20); the other four are the
model's own (log 3 to 6). -/
structure State where
  ctx : CtxSlot
  ksg : KsgSlot
  faultReg : FaultReg
  phase : Phase
  scratch : Scratch
  pending : List Event
  responses : List Response
  bus : Option BusValue
  freeCount : Nat
deriving DecidableEq, Repr, Inhabited

/-- Why the machine stops with a fault. The engine's own fault CounterOverflow is not here: the model takes it, as a next
state (60_exceptions R232). -/
inductive Fault where
  /-- Raised by every operation presented to a halted engine, and by a step of a halted engine that is not reset: it has no
  successor except reset (60_exceptions R232, U11). Safe: the model stops (log 7). -/
  | halted
deriving DecidableEq, Repr

/-- Why the machine refuses: the spec gives the request no meaning (60_exceptions R233). Every refusal is safe: the model
stops. -/
inductive Refusal where
  /-- No meaning in this model yet, by the table's mnemonic: raised by exec's refused arms only. -/
  | notModelled (mnemonic : String)
  /-- Raised by the step when what is presented decodes to no operation (30_encoding R103, U8). -/
  | undecodable (e : DecodeError)
  /-- Raised by SEAL, OPEN and CTX_DESTROY when CTX.valid = 0 (43_aead R183, U9). -/
  | contextNotConstructed
  /-- Raised by KSG_NEXT and KSG_DESTROY when KSG.valid = 0 (41_keystream_generator R147, U9). -/
  | generatorNotConstructed
  /-- Raised by every operation when an operand is outside its domain (60_exceptions R220, U10; log 13). -/
  | operandOutsideDomain
deriving DecidableEq, Repr

/-- CTX after reset (10_state R33). -/
def CtxSlot.reset : CtxSlot := { valid := false, key := Vector.replicate 32 0, pre := Vector.replicate 12 0 }

/-- KSG after reset (10_state R33). -/
def KsgSlot.reset : KsgSlot :=
  { valid := false, key := Vector.replicate 32 0, nonce := Vector.replicate 12 0, ctr := 0, ovf := false }

/-- The scratch registers of `State.reset`: zero. DESIGN CHOICE, unsafe (log 2): the spec gives them no reset value and no
command reads one before writing it (10_state R33). No statement rests on these zeros. -/
def Scratch.reset : Scratch :=
  { w := Vector.replicate 16 0, w0 := Vector.replicate 16 0, nonce := Vector.replicate 12 0, ctr := 0, ovf := false
    otk := Vector.replicate 32 0, r := 0, s := 0, acc := 0, tag := Vector.replicate 16 0, diff := 0 }

/-- The engine right after reset (10_state R33, 70_reset_and_hazards R260), with nothing presented to it yet. -/
def State.reset : State :=
  { ctx := CtxSlot.reset, ksg := KsgSlot.reset, faultReg := .none, phase := .idle, scratch := Scratch.reset
    pending := [], responses := [], bus := none, freeCount := 0 }

end Sys2Proof.Machine
end

