-- ==== Sys2Proof/Machine/Ops.lean ====
section
/-! DEFINITION. The operations every meaning is built from: beginning an operation (halted engine and operand domain),
beginning one that needs a slot, moving PHASE, returning a result to the host, taking the fault CounterOverflow, coming back
from it by reset, and returning a value from a stand-alone micro-operation. -/

namespace Sys2Proof.Machine

/-- The outcome of an operation. -/
abbrev Out := Host.Outcome State Fault Refusal

/-- The scratch registers when they are unspecified: free values (10_state R25 to R28, U7). DESIGN CHOICE, safe (log 6). -/
def freeScratch (n : Nat) : Scratch :=
  { w := Config.freeW n, w0 := Config.freeW0 n, nonce := Config.freeNonce n, ctr := Config.freeCtr n
    ovf := Config.freeOvf n, otk := Config.freeOtk n, r := Config.freeR n, s := Config.freeS n, acc := Config.freeAcc n
    tag := Config.freeTag n, diff := Config.freeDiff n }

/-- The state with every scratch register unspecified; the free values are fresh each time (log 6). -/
def State.freeAllScratch (s : State) : State :=
  { s with scratch := freeScratch s.freeCount, freeCount := s.freeCount + 1 }

/-- `PHASE <- p` (00_scope R13, 10_state R24). -/
def State.enter (s : State) (p : Phase) : State := { s with phase := p }

/-- The state with other scratch registers. -/
def State.withScratch (s : State) (sc : Scratch) : State := { s with scratch := sc }

/-- A command returns: its response goes to the host, PHASE is IDLE, and what the scratch registers hold is unspecified
(60_exceptions R229, R231; 10_state R24 to R28). Nothing else changes. -/
def State.reply (s : State) (r : Response) : State :=
  { s.freeAllScratch with phase := .idle, responses := s.responses ++ [r] }

/-- A command returns a result code and nothing else: an error result (60_exceptions R229), or OK without output. -/
def State.replyCode (s : State) (r : Result) : State := s.reply { result := r, output := none, buffer := none }

/-- `fault CounterOverflow`, taken: FAULT names it, PHASE is HALT, nothing is returned and no buffer is written; the secrets
in the slots are still held (60_exceptions R226, R232). The scratch registers are unspecified (U7). -/
def State.takeCounterOverflow (s : State) : State :=
  { s.freeAllScratch with faultReg := .counterOverflow, phase := .halt }

/-- Reset, the only way back from a fault: both slots, FAULT and PHASE as 10_state R33 says, the scratch registers
unspecified (70_reset_and_hazards R260). What the host has still to present, and what it has been answered, are the host's
and stay. -/
def State.takeReset (s : State) (rest : List Event) : State :=
  { (State.freeAllScratch s) with
    ctx := CtxSlot.reset, ksg := KsgSlot.reset, faultReg := .none, phase := .idle, bus := none, pending := rest }

/-- A stand-alone micro-operation ends: it has written scratch registers and returned a value, or none
(30_encoding R102; DESIGN CHOICE, log 5). -/
def State.deliver (s : State) (sc : Scratch) (v : Option BusValue) : State := { s with scratch := sc, bus := v }

/-- Beginning an operation. A halted engine performs none (60_exceptions R232, U11; log 7), whatever its code; an operand
outside its domain is refused (60_exceptions R233, U10; log 13). -/
def perform (i : Instr) (s : State) (k : Out) : Out :=
  if s.faultReg = .none then
    if i.wellFormed then k else .refused .operandOutsideDomain
  else .fault .halted

/-- Beginning a command that needs a constructed context (43_aead R183). -/
def needContext (s : State) (k : Out) : Out :=
  if s.ctx.valid then k else .refused .contextNotConstructed

/-- Beginning a command that needs a constructed generator (41_keystream_generator R147). -/
def needGenerator (s : State) (k : Out) : Out :=
  if s.ksg.valid then k else .refused .generatorNotConstructed

/-- The length checks of a constructor, in their order: the key, then the nonce or prefix (41_keystream_generator R140, R141;
43_aead R180, R181; 60_exceptions R228). A failed one changes no slot. -/
def checkLengths (key nonce : Bytes) (s : State) (k : Key → Nonce → Out) : Out :=
  match vec? 32 key with
  | none => .next (s.replyCode .invalidKeyLength)
  | some key =>
    match vec? 12 nonce with
    | none => .next (s.replyCode .invalidNonceLength)
    | some nonce => k key nonce

end Sys2Proof.Machine
end

