-- ==== Sys2Proof/Machine/ChaCha.lean ====
section
/-! DEFINITION. The ChaCha20 core (spec 40_chacha20_core): the quarter-round, the double round, the initial matrix and the
block function, as functions and as what the micro-operations QR, DROUND, CC20_INIT and CC20_BLOCK do to the scratch
registers; then the meanings of those four. The functions are
irreducible, so that no unification unfolds twenty rounds: `simp [f]` and `rw [f]` unfold one by name. -/

namespace Sys2Proof.Machine

/-- The four words of a quarter-round. -/
structure Quad where
  a : Word
  b : Word
  c : Word
  d : Word
deriving DecidableEq, Repr

/-- `QRf(a, b, c, d)`: the twelve steps, in their order (40_chacha20_core R120). -/
@[irreducible] def quarterRound (q : Quad) : Quad :=
  let a1 := q.a + q.b
  let d1 := rotl32 (q.d ^^^ a1) 16
  let c1 := q.c + d1
  let b1 := rotl32 (q.b ^^^ c1) 12
  let a2 := a1 + b1
  let d2 := rotl32 (d1 ^^^ a2) 8
  let c2 := c1 + d2
  let b2 := rotl32 (b1 ^^^ c2) 7
  { a := a2, b := b2, c := c2, d := d2 }

/-- QR on the words of the matrix at four indices (40_chacha20_core R120). -/
def qrAt (a b c d : Fin 16) (w : Matrix) : Matrix :=
  let q := quarterRound { a := w[a], b := w[b], c := w[c], d := w[d] }
  (((w.set a q.a).set b q.b).set c q.c).set d q.d

/-- The four column quarter-rounds (40_chacha20_core R122). -/
@[irreducible] def columnRound (w : Matrix) : Matrix :=
  qrAt 3 7 11 15 (qrAt 2 6 10 14 (qrAt 1 5 9 13 (qrAt 0 4 8 12 w)))

/-- The four diagonal quarter-rounds (40_chacha20_core R122). -/
@[irreducible] def diagonalRound (w : Matrix) : Matrix :=
  qrAt 3 4 9 14 (qrAt 2 7 8 13 (qrAt 1 6 11 12 (qrAt 0 5 10 15 w)))

/-- A double round: the columns, then the diagonals (40_chacha20_core R122). -/
@[irreducible] def doubleRound (w : Matrix) : Matrix := diagonalRound (columnRound w)

/-- `n` double rounds, one after another (40_chacha20_core R125). -/
@[irreducible] def doubleRounds : Nat → Matrix → Matrix
  | 0, w => w
  | n + 1, w => doubleRounds n (doubleRound w)

/-- The four constant words, `expand 32-byte k` (30_encoding R83). -/
def sigma : List Word := [0x61707865#32, 0x3320646e#32, 0x79622d32#32, 0x6b206574#32]

/-- The initial matrix: four constants, eight key words, the counter, three nonce words (30_encoding R80 to R82,
40_chacha20_core R124). -/
@[irreducible] def initialMatrix (key : Key) (ctr : Word) (nonce : Nonce) : Matrix :=
  vecOf (sigma ++ ((List.range 8).map (wordAt key.toList) ++ (ctr :: (List.range 3).map (wordAt nonce.toList)))) rfl

/-- The feed-forward: word by word, modulo 2^32 (40_chacha20_core R126). -/
@[irreducible] def feedForward (w w0 : Matrix) : Matrix :=
  vecOf (List.zipWith (· + ·) w.toList w0.toList) (by simp)

/-- The words of a list, each in four little-endian bytes. -/
def serialWords : List Word → Bytes
  | [] => []
  | v :: vs => toLE v.toNat 4 ++ serialWords vs

theorem serialWords_length (l : List Word) : (serialWords l).length = 4 * l.length := by
  induction l with
  | nil => rfl
  | cons v vs ih => simp [serialWords, toLE_length, ih]; omega

/-- The 64-byte block of sixteen words (30_encoding R84). -/
@[irreducible] def serializeMatrix (w : Matrix) : Block := vecOf (serialWords w.toList) (by simp [serialWords_length])

/-- `CC20_BLOCK(key, ctr, nonce)`: the block function (40_chacha20_core R126). -/
@[irreducible] def cc20Block (key : Key) (ctr : Word) (nonce : Nonce) : Block :=
  let w0 := initialMatrix key ctr nonce
  serializeMatrix (feedForward (doubleRounds 10 w0) w0)

/-- What QR does to the scratch registers. -/
def Scratch.qr (sc : Scratch) (a b c d : Fin 16) : Scratch := { sc with w := qrAt a b c d sc.w }

/-- What DROUND does to the scratch registers. -/
def Scratch.dround (sc : Scratch) : Scratch := { sc with w := doubleRound sc.w }

/-- What CC20_INIT does to the scratch registers: W, and its saved copy W0 (40_chacha20_core R124). -/
def Scratch.cc20Init (sc : Scratch) (key : Key) (ctr : Word) (nonce : Nonce) : Scratch :=
  { sc with w := initialMatrix key ctr nonce, w0 := initialMatrix key ctr nonce }

/-- What CC20_BLOCK does to the scratch registers: W after the ten double rounds, W0 the initial matrix; the sums of the
feed-forward are not written back (40_chacha20_core R126). -/
def Scratch.cc20Block (sc : Scratch) (key : Key) (ctr : Word) (nonce : Nonce) : Scratch :=
  { sc with w := doubleRounds 10 (initialMatrix key ctr nonce), w0 := initialMatrix key ctr nonce }

/-- QR (40_chacha20_core R120). -/
def execQr (a b c d : Fin 16) (s : State) : Out :=
  perform (.qr a b c d) s (.next (s.deliver (s.scratch.qr a b c d) none))

/-- DROUND (40_chacha20_core R122). -/
def execDround (s : State) : Out :=
  perform .dround s (.next (s.deliver s.scratch.dround none))

/-- CC20_INIT (40_chacha20_core R124). -/
def execCc20Init (key : Key) (ctr : Word) (nonce : Nonce) (s : State) : Out :=
  perform (.cc20Init key ctr nonce) s (.next (s.deliver (s.scratch.cc20Init key ctr nonce) none))

/-- CC20_BLOCK (40_chacha20_core R126). -/
def execCc20Block (key : Key) (ctr : Word) (nonce : Nonce) (s : State) : Out :=
  perform (.cc20Block key ctr nonce) s
    (.next (s.deliver (s.scratch.cc20Block key ctr nonce) (some (.bytes (cc20Block key ctr nonce).toList))))

end Sys2Proof.Machine
end

