-- ==== Sys2Proof/Machine/Keystream.lean ====
section
/-! DEFINITION. The keystream generator (spec 41_keystream_generator): masking with the scratch generator, and the meanings
of KSG_INIT, KSG_NEXT, KSG_DESTROY and KS_XOR. -/

namespace Sys2Proof.Machine

/-- KS_XOR's loop, one 64-byte piece of the data at a time: with the overflow bit set it faults (`none`); otherwise it makes
the block of S.ctr, advances S.ctr and S.ovf, and masks the piece with as much of the block as it needs
(41_keystream_generator R150). -/
def maskPieces (key : Key) (nonce : Nonce) : List Bytes → Scratch → Option (Bytes × Scratch)
  | [], sc => some ([], sc)
  | piece :: rest, sc =>
    if sc.ovf then none
    else
      let ks := cc20Block key sc.ctr nonce
      let sc1 := sc.cc20Block key sc.ctr nonce
      let sc2 := { sc1 with ctr := advanceCtr sc.ctr, ovf := advanceOvf sc.ctr sc.ovf }
      (maskPieces key nonce rest sc2).map fun r => (xorBytes piece ks.toList ++ r.1, r.2)

/-- What KS_XOR does: the masked data and the scratch registers, or `none` where it raises the fault CounterOverflow
(41_keystream_generator R150). -/
def Scratch.ksXor (sc : Scratch) (key : Key) (nonce : Nonce) (ctr0 : Word) (data : Bytes) : Option (Bytes × Scratch) :=
  maskPieces key nonce (blocksOf 64 data) { sc with ctr := ctr0, ovf := false }

/-- KSG_INIT (41_keystream_generator R140 to R142). -/
def execKsgInit (key nonce : Bytes) (ctr0 : Word) (s : State) : Out :=
  perform (.ksgInit key nonce ctr0) s
    (checkLengths key nonce (s.enter .check) fun key nonce =>
      .next (State.replyCode { s with ksg := { valid := true, key := key, nonce := nonce, ctr := ctr0, ovf := false } } .ok))

/-- KSG_NEXT (41_keystream_generator R143, R146). -/
def execKsgNext (s : State) : Out :=
  perform .ksgNext s
    (needGenerator s
      (if s.ksg.ovf then .next s.takeCounterOverflow
      else
        let out := cc20Block s.ksg.key s.ksg.ctr s.ksg.nonce
        let ksg := { s.ksg with ctr := advanceCtr s.ksg.ctr, ovf := advanceOvf s.ksg.ctr s.ksg.ovf }
        .next (State.reply { s with ksg := ksg } { result := .ok, output := some out.toList, buffer := none })))

/-- KSG_DESTROY (41_keystream_generator R148). -/
def execKsgDestroy (s : State) : Out :=
  perform .ksgDestroy s
    (needGenerator s
      (.next (State.replyCode
        { s with ksg := { valid := false, key := zeroVec 32, nonce := zeroVec 12, ctr := 0, ovf := false } } .ok)))

/-- KS_XOR (41_keystream_generator R150). -/
def execKsXor (key : Key) (nonce : Nonce) (ctr0 : Word) (data : Bytes) (s : State) : Out :=
  perform (.ksXor key nonce ctr0 data) s
    (match s.scratch.ksXor key nonce ctr0 data with
    | none => .next s.takeCounterOverflow
    | some (out, sc) => .next (s.deliver sc (some (.bytes out))))

end Sys2Proof.Machine
end

