-- ==== Sys2Proof/Machine/Poly1305.lean ====
section
/-! DEFINITION. The Poly1305 authenticator (spec 42_poly1305; arithmetic 00_scope R11: exact non-negative integers): the
registers P.r, P.s and P.acc, and the meanings of P1305_CLAMP, P1305_BLOCK, P1305_FINAL and P1305_MAC. -/

namespace Sys2Proof.Machine

/-- `P = 2^130 − 5` (00_scope R11). -/
def polyPrime : Nat := 2 ^ 130 - 5

/-- The clamp mask (30_encoding R93). -/
def clampMask : BitVec 128 := 0x0ffffffc0ffffffc0ffffffc0fffffff#128

/-- P.r of a one-time key: its first half, little-endian, clamped (42_poly1305 R160). -/
@[irreducible] def clampedR (otk : Otk) : BitVec 128 := BitVec.ofNat 128 (leNat (memRead otk.toList 0 16)) &&& clampMask

/-- P.s of a one-time key: its second half, little-endian (42_poly1305 R160). -/
@[irreducible] def secondHalf (otk : Otk) : BitVec 128 := BitVec.ofNat 128 (leNat (memRead otk.toList 16 16))

/-- A message block as an integer: little-endian, with the marker bit just above its last byte, on a full block too
(30_encoding R87). -/
def blockValue (m : Bytes) : Nat := leNat m + 2 ^ (8 * m.length)

/-- `((acc + n) × r) mod P` for a block of value `n` (42_poly1305 R162). -/
@[irreducible] def absorb (r : BitVec 128) (acc : BitVec 130) (m : Bytes) : BitVec 130 :=
  BitVec.ofNat 130 ((acc.toNat + blockValue m) * r.toNat % polyPrime)

/-- The accumulator after all blocks of a message, from 0 (42_poly1305 R166). -/
def absorbAll (r : BitVec 128) (blocks : List Bytes) : BitVec 130 := blocks.foldl (absorb r) 0

/-- The tag: `(acc + s) mod 2^128`, little-endian (42_poly1305 R164). -/
@[irreducible] def polyTag (acc : BitVec 130) (s : BitVec 128) : Tag := toLEVec ((acc.toNat + s.toNat) % 2 ^ 128) 16

/-- `P1305_MAC(otk, msg)` (42_poly1305 R166). -/
def poly1305Mac (otk : Otk) (msg : Bytes) : Tag :=
  polyTag (absorbAll (clampedR otk) (blocksOf 16 msg)) (secondHalf otk)

/-- What P1305_CLAMP does to the scratch registers (42_poly1305 R160). -/
def Scratch.clamp (sc : Scratch) (otk : Otk) : Scratch := { sc with r := clampedR otk, s := secondHalf otk, acc := 0 }

/-- What P1305_BLOCK does to the scratch registers (42_poly1305 R162). -/
def Scratch.block (sc : Scratch) (m : Bytes) : Scratch := { sc with acc := absorb sc.r sc.acc m }

/-- What P1305_MAC does to the scratch registers: the clamp, then every block in its order (42_poly1305 R166). -/
def Scratch.mac (sc : Scratch) (otk : Otk) (msg : Bytes) : Scratch :=
  (blocksOf 16 msg).foldl Scratch.block (sc.clamp otk)

/-- P1305_CLAMP (42_poly1305 R160). -/
def execP1305Clamp (otk : Otk) (s : State) : Out :=
  perform (.p1305Clamp otk) s (.next (s.deliver (s.scratch.clamp otk) none))

/-- P1305_BLOCK (42_poly1305 R162). -/
def execP1305Block (m : Bytes) (s : State) : Out :=
  perform (.p1305Block m) s (.next (s.deliver (s.scratch.block m) none))

/-- P1305_FINAL (42_poly1305 R164). -/
def execP1305Final (s : State) : Out :=
  perform .p1305Final s (.next (s.deliver s.scratch (some (.bytes (polyTag s.scratch.acc s.scratch.s).toList))))

/-- P1305_MAC (42_poly1305 R166): the tag is P1305_FINAL's, of the registers the blocks have left. -/
def execP1305Mac (otk : Otk) (msg : Bytes) (s : State) : Out :=
  perform (.p1305Mac otk msg) s
    (let sc := s.scratch.mac otk msg
    .next (s.deliver sc (some (.bytes (polyTag sc.acc sc.s).toList))))

end Sys2Proof.Machine
end

