-- ==== Sys2Proof/Machine/Aead.lean ====
section
/-! DEFINITION. The AEAD composer (spec 43_aead): the derived nonce, the one-time key, the authenticated byte string, the tag
and its comparison; then the meanings of CTX_INIT, CTX_DESTROY, SEAL, OPEN and of the five micro-operations. -/

namespace Sys2Proof.Machine

/-- The 96-bit sequence field: four zero bytes and the sequence number, big-endian (30_encoding R89). -/
def seqField (seq : BitVec 64) : Nonce := vecOf (zeros 4 ++ toBE seq.toNat 8) (by simp [zeros, toBE_length])

/-- `AEAD_NONCE(pre, seq)`, the one replaceable function of 43_aead R185 (e) (43_aead R184; D11, log 10). -/
@[irreducible] def deriveNonce (pre : Nonce) (seq : BitVec 64) : Nonce := xorVec pre (seqField seq)

/-- `AEAD_OTK(key, nonce)`: the first 32 bytes of keystream block 0 (43_aead R186). -/
@[irreducible] def deriveOtk (key : Key) (nonce : Nonce) : Otk := firstBytes 32 (cc20Block key 0 nonce) (by decide)

/-- `AEAD_MACDATA(aad, ct)`, the authenticated byte string (30_encoding R90, 43_aead R193). -/
def macData (aad ct : Bytes) : Bytes :=
  aad ++ zeros (padLen aad.length) ++ ct ++ zeros (padLen ct.length) ++ toLE aad.length 8 ++ toLE ct.length 8

/-- `AEAD_TAG(key, nonce, aad, ct)` (43_aead R194). -/
def recordTag (key : Key) (nonce : Nonce) (aad ct : Bytes) : Tag := poly1305Mac (deriveOtk key nonce) (macData aad ct)

/-- What AEAD_OTK does to the scratch registers: block 0 is made in W, S.otk takes its first half, and the scratch generator
is left at counter 1 (43_aead R186). -/
def Scratch.deriveOtk (sc : Scratch) (key : Key) (nonce : Nonce) : Scratch :=
  { sc.cc20Block key 0 nonce with otk := Machine.deriveOtk key nonce, ctr := 1, ovf := false }

/-- What AEAD_TAG does to the scratch registers (43_aead R194). -/
def Scratch.recordTag (sc : Scratch) (key : Key) (nonce : Nonce) (aad ct : Bytes) : Scratch :=
  let sc1 := sc.deriveOtk key nonce
  let sc2 := sc1.mac sc1.otk (macData aad ct)
  { sc2 with tag := polyTag sc2.acc sc2.s }

/-- What TAG_EQ does to the scratch registers (43_aead R196). -/
def Scratch.compareTags (sc : Scratch) (a b : Tag) : Scratch := { sc with diff := tagDiff a b }

/-- The ciphertext of OPEN's input: all but its last 16 bytes (43_aead R203). -/
def ciphertextOf (ctt : Bytes) : Bytes := memRead ctt 0 (ctt.length - 16)

/-- The received tag of OPEN's input: its last 16 bytes (43_aead R203). -/
def receivedTag (ctt : Bytes) (h : 16 ≤ ctt.length) : Tag :=
  vecOf (memRead ctt (ctt.length - 16) 16) (by simp [memRead]; omega)

/-- The buffer OPEN writes to: the destination, or the ciphertext buffer itself where it is null (20_memory R51, R57). -/
def openBuffer (dst : Option Bytes) (ctt : Bytes) : Bytes := dst.getD ctt

/-- That buffer after a wrong tag, by the parameter OPEN_FAIL_DST (43_aead R205; log 8). -/
def failedBuffer (choice : OpenFailDst) (dst : Option Bytes) (ctt : Bytes) : Bytes :=
  match choice with
  | .untouched => openBuffer dst ctt
  | .zeroed => memWrite (openBuffer dst ctt) 0 (zeros (ctt.length - 16))

/-- CTX_INIT (43_aead R180, R181). -/
def execCtxInit (key pre : Bytes) (s : State) : Out :=
  perform (.ctxInit key pre) s
    (checkLengths key pre (s.enter .check) fun key pre =>
      .next (State.replyCode { s with ctx := { valid := true, key := key, pre := pre } } .ok))

/-- CTX_DESTROY (43_aead R182). -/
def execCtxDestroy (s : State) : Out :=
  perform .ctxDestroy s
    (needContext s
      (.next (State.replyCode { s with ctx := { valid := false, key := zeroVec 32, pre := zeroVec 12 } } .ok)))

/-- SEAL (43_aead R199, R200): CHECK, NONCE, MASK, then OTK and MAC, RELEASE. -/
def execSealRecord (seq : BitVec 64) (aad plaintext : Bytes) (s : State) : Out :=
  perform (.sealRecord seq aad plaintext) s
    (needContext s
      (if plaintext.length > Config.maxMsg then .next (s.enter .check).takeCounterOverflow
      else
        let s1 := (s.enter .nonce).withScratch { s.scratch with nonce := deriveNonce s.ctx.pre seq }
        match (s1.enter .mask).scratch.ksXor s1.ctx.key s1.scratch.nonce 1 plaintext with
        | none => .next (s1.enter .mask).takeCounterOverflow
        | some (ct, sc) =>
          let s2 := ((s1.enter .otk).enter .mac).withScratch (sc.recordTag s1.ctx.key sc.nonce aad ct)
          .next ((s2.enter .release).reply
            { result := .ok, output := some (ct ++ s2.scratch.tag.toList), buffer := none })))

/-- OPEN (43_aead R199, R203 to R207): CHECK, NONCE, OTK and MAC, COMPARE, then FAIL, or MASK and RELEASE. -/
def execOpenRecord (seq : BitVec 64) (dst : Option Bytes) (aad ctt : Bytes) (s : State) : Out :=
  perform (.openRecord seq dst aad ctt) s
    (needContext s
      (if short : ctt.length < 16 then
        .next ((s.enter .check).reply { result := .malformedInput, output := none, buffer := some (openBuffer dst ctt) })
      else
        let ct := ciphertextOf ctt
        if ct.length > Config.maxMsg then .next (s.enter .check).takeCounterOverflow
        else
          let s1 := (s.enter .nonce).withScratch { s.scratch with nonce := deriveNonce s.ctx.pre seq }
          let s2 := ((s1.enter .otk).enter .mac).withScratch (s1.scratch.recordTag s1.ctx.key s1.scratch.nonce aad ct)
          let s3 := (s2.enter .compare).withScratch
            (s2.scratch.compareTags s2.scratch.tag (receivedTag ctt (Nat.le_of_not_lt short)))
          if s3.scratch.diff = 0 then
            match (s3.enter .mask).scratch.ksXor s3.ctx.key s3.scratch.nonce 1 ct with
            | none => .next (s3.enter .mask).takeCounterOverflow
            | some (pt, sc) =>
              .next (((s3.withScratch sc).enter .release).reply
                { result := .ok, output := some pt, buffer := some (memWrite (openBuffer dst ctt) 0 pt) })
          else
            .next ((s3.enter .fail).reply
              { result := .authenticationFailure, output := none
                buffer := some (failedBuffer Config.openFailDst dst ctt) })))

/-- AEAD_NONCE (43_aead R184). -/
def execAeadNonce (pre : Nonce) (seq : BitVec 64) (s : State) : Out :=
  perform (.aeadNonce pre seq) s (.next (s.deliver s.scratch (some (.bytes (deriveNonce pre seq).toList))))

/-- AEAD_OTK (43_aead R186). -/
def execAeadOtk (key : Key) (nonce : Nonce) (s : State) : Out :=
  perform (.aeadOtk key nonce) s
    (let sc := s.scratch.deriveOtk key nonce
    .next (s.deliver sc (some (.bytes sc.otk.toList))))

/-- AEAD_MACDATA (43_aead R193). -/
def execAeadMacdata (aad ct : Bytes) (s : State) : Out :=
  perform (.aeadMacdata aad ct) s (.next (s.deliver s.scratch (some (.bytes (macData aad ct)))))

/-- AEAD_TAG (43_aead R194). -/
def execAeadTag (key : Key) (nonce : Nonce) (aad ct : Bytes) (s : State) : Out :=
  perform (.aeadTag key nonce aad ct) s
    (let sc := s.scratch.recordTag key nonce aad ct
    .next (s.deliver sc (some (.bytes sc.tag.toList))))

/-- TAG_EQ (43_aead R196): equal exactly when S.diff is 0. -/
def execTagEq (a b : Tag) (s : State) : Out :=
  perform (.tagEq a b) s
    (let sc := s.scratch.compareTags a b
    .next (s.deliver sc (some (.verdict (decide (sc.diff = 0))))))

end Sys2Proof.Machine
end

