-- ==== Sys2Proof/Machine/Dispatch.lean ====
section
/-! DEFINITION. One arm for each constructor of Instr: one direct call of the operation's meaning. -/

namespace Sys2Proof.Machine

def exec (i : Instr) (s : State) : Host.Outcome State Fault Refusal :=
  match i with
  -- the commands (30_encoding R100)
  | .ctxInit key pre => Sys2Proof.Machine.execCtxInit key pre s
  | .ctxDestroy => Sys2Proof.Machine.execCtxDestroy s
  | .sealRecord seq aad plaintext => Sys2Proof.Machine.execSealRecord seq aad plaintext s
  | .openRecord seq dst aad ctt => Sys2Proof.Machine.execOpenRecord seq dst aad ctt s
  | .ksgInit key nonce ctr0 => Sys2Proof.Machine.execKsgInit key nonce ctr0 s
  | .ksgNext => Sys2Proof.Machine.execKsgNext s
  | .ksgDestroy => Sys2Proof.Machine.execKsgDestroy s
  -- the micro-operations (30_encoding R102)
  | .qr a b c d => Sys2Proof.Machine.execQr a b c d s
  | .dround => Sys2Proof.Machine.execDround s
  | .cc20Init key ctr nonce => Sys2Proof.Machine.execCc20Init key ctr nonce s
  | .cc20Block key ctr nonce => Sys2Proof.Machine.execCc20Block key ctr nonce s
  | .ksXor key nonce ctr0 data => Sys2Proof.Machine.execKsXor key nonce ctr0 data s
  | .p1305Clamp otk => Sys2Proof.Machine.execP1305Clamp otk s
  | .p1305Block m => Sys2Proof.Machine.execP1305Block m s
  | .p1305Final => Sys2Proof.Machine.execP1305Final s
  | .p1305Mac otk msg => Sys2Proof.Machine.execP1305Mac otk msg s
  | .aeadNonce pre seq => Sys2Proof.Machine.execAeadNonce pre seq s
  | .aeadOtk key nonce => Sys2Proof.Machine.execAeadOtk key nonce s
  | .aeadMacdata aad ct => Sys2Proof.Machine.execAeadMacdata aad ct s
  | .aeadTag key nonce aad ct => Sys2Proof.Machine.execAeadTag key nonce aad ct s
  | .tagEq a b => Sys2Proof.Machine.execTagEq a b s

end Sys2Proof.Machine
end

