-- ==== Sys2Proof/Machine/Step.lean ====
section
/-! DEFINITION. One step of the engine: one whole command, or one reset between commands (spec 00_scope R19,
70_reset_and_hazards R260, R270). The engine fetches no instructions (10_state R24): what it takes next is the oldest thing
presented to it (log 3). -/

namespace Sys2Proof.Machine

/-- The engine takes what `pending` holds first. Reset always succeeds (70_reset_and_hazards R260). A halted engine does
nothing else (60_exceptions R232, U11). With nothing presented the engine is idle and nothing changes (60_exceptions R245).
Otherwise the packet is decoded at its port and performed, or refused by name (30_encoding R103). -/
def step (s : State) : Host.Outcome State Fault Refusal :=
  match s.pending with
  | .reset :: rest => .next (s.takeReset rest)
  | [] => if s.faultReg = .none then .next s else .fault .halted
  | .present port p :: rest =>
    if s.faultReg = .none then
      match decode port p with
      | .ok i => exec i { s with pending := rest }
      | .error e => .refused (.undecodable e)
    else .fault .halted

/-- The table word, presented at the port its bit 7 names, before anything else: the very next step performs it
(log 3, log 12). -/
def State.withFetchWord (s : State) (nbits w : Nat) : State :=
  if 8 ≤ nbits then
    { s with pending := .present (portOfCode (BitVec.ofNat 8 w)) (packetOfTableWord w) :: s.pending }
  else s

end Sys2Proof.Machine
end

