-- ==== Sys2Proof/Machine/ClosedForms.lean ====
section
/-! DEFINITION. The closed forms the spec gives beside its pseudocode, and the pseudocode's steps in the spec's own arithmetic
of non-negative integers (00_scope R8, R9, R10). No meaning calls them: the statements hold the machine against them. -/

namespace Sys2Proof.Machine

/-- `a +32 b` on integers (00_scope R8). -/
def addMod32 (a b : Nat) : Nat := (a + b) % 2 ^ 32

/-- `ROTL32(v, n)` on integers: `((v << n) mod 2^32) | (v >> (32 − n))` (00_scope R9). -/
def rotlNat (v n : Nat) : Nat := (v <<< n) % 2 ^ 32 ||| v >>> (32 - n)

/-- The twelve steps of QR, each reading what the earlier ones wrote, on integers (40_chacha20_core R120). -/
def quarterSteps (a b c d : Nat) : Nat × Nat × Nat × Nat :=
  let a := addMod32 a b
  let d := d ^^^ a
  let d := rotlNat d 16
  let c := addMod32 c d
  let b := b ^^^ c
  let b := rotlNat b 12
  let a := addMod32 a b
  let d := d ^^^ a
  let d := rotlNat d 8
  let c := addMod32 c d
  let b := b ^^^ c
  let b := rotlNat b 7
  (a, b, c, d)

/-- `LE32` of the four bytes from an offset on, written out (00_scope R10). -/
def le32At {n : Nat} (b : Vector Byte n) (off : Nat) (h : off + 3 < n) : Nat :=
  b[off].toNat + 2 ^ 8 * b[off + 1].toNat + 2 ^ 16 * b[off + 2].toNat + 2 ^ 24 * b[off + 3].toNat

/-- `KS_XOR(key, nonce, ctr0, data)` as a function of the byte's position: byte `p` is masked with byte `p mod 64` of the block
of counter `ctr0 + floor(p / 64)` (41_keystream_generator R150). -/
def keystreamMask (key : Key) (nonce : Nonce) (ctr0 : Nat) (data : Bytes) : Bytes :=
  data.mapIdx fun p x =>
    x ^^^ (cc20Block key (BitVec.ofNat 32 (ctr0 + p / 64)) nonce)[p % 64]'(Nat.mod_lt p (by decide))

/-- How many 64-byte blocks a message of `n` bytes needs: `ceil(n / 64)` (41_keystream_generator R150). -/
def blocksNeeded (n : Nat) : Nat := (n + 63) / 64

/-- The blocks of a message, each by its place: block `i` is bytes `16i` to `min(16i + 16, L)`, for `i` from 0 to
`ceil(L / 16) − 1` (42_poly1305 R163). -/
def messageBlocks (msg : Bytes) : List Bytes :=
  (List.range ((msg.length + 15) / 16)).map fun i => memRead msg (16 * i) (min 16 (msg.length - 16 * i))

/-- `n_1·r^q + n_2·r^(q−1) + … + n_q·r` (42_poly1305 R166). -/
def polySum (r : Nat) : List Nat → Nat
  | [] => 0
  | n :: ns => n * r ^ (ns.length + 1) + polySum r ns

/-- A list of operations performed one after another, stopping at the first that does not answer a next state
(30_encoding R107). -/
def performAll : List Instr → State → Out
  | [], s => .next s
  | i :: is, s =>
    match exec i s with
    | .next t => performAll is t
    | .fault r => .fault r
    | .refused r => .refused r

/-- The result codes (30_encoding R104). -/
def Result.code : Result → Nat
  | .ok => 0
  | .invalidKeyLength => 1
  | .invalidNonceLength => 2
  | .malformedInput => 3
  | .authenticationFailure => 4

end Sys2Proof.Machine
end

