-- ==== Sys2Proof/Safety.lean ====
section
/-! DEFINITION. What the statements call a running engine, a sound state and an allowed effect: the invariants that hold
between commands (10_state R32), and what a command that returns, a fault that is taken and a micro-operation leave unchanged
(60_exceptions R229, R232). -/

namespace Sys2Proof.Safety

open Sys2Proof Sys2Proof.Machine

/-- FAULT = none: the premise of every claim about a run (60_exceptions R232). -/
abbrev Running (s : State) : Prop := s.faultReg = .none

/-- R32 (i): a context slot that is not valid is zeroed. -/
abbrev CtxSlotSound (c : CtxSlot) : Prop := c.valid = false → c.key = zeroVec 32 ∧ c.pre = zeroVec 12

/-- R32 (ii) and (iii): a generator slot that is not valid is zeroed; an overflow bit belongs to a valid slot whose counter is
the last one. -/
abbrev KsgSlotSound (k : KsgSlot) : Prop :=
  (k.valid = false → k.key = zeroVec 32 ∧ k.nonce = zeroVec 12 ∧ k.ctr = 0 ∧ k.ovf = false) ∧
    (k.ovf = true → k.valid = true ∧ k.ctr = 0xFFFFFFFF#32)

/-- R32 (iv): PHASE is IDLE when FAULT = none and HALT otherwise. -/
abbrev PhaseSound (s : State) : Prop :=
  (s.faultReg = .none → s.phase = .idle) ∧ (s.faultReg ≠ .none → s.phase = .halt)

/-- The invariants that hold between commands (10_state R32). -/
abbrev SlotInvariant (s : State) : Prop := CtxSlotSound s.ctx ∧ KsgSlotSound s.ksg ∧ PhaseSound s

/-- From `s` to `t` one command has returned one response to the host and is done: PHASE is IDLE, FAULT is as it was. The
scratch registers are unspecified (10_state R25 to R28); the slots are left to the statement that uses this. -/
abbrev Replied (s t : State) (r : Response) : Prop :=
  t.responses = s.responses ++ [r] ∧ t.phase = .idle ∧ t.faultReg = s.faultReg ∧ t.pending = s.pending ∧ t.bus = s.bus

/-- Both slots are bit for bit what they were (60_exceptions R229). -/
abbrev SlotsKept (s t : State) : Prop := t.ctx = s.ctx ∧ t.ksg = s.ksg

/-- From `s` to `t` the fault CounterOverflow has been taken: FAULT and PHASE say so, nothing is returned, no slot has
changed (60_exceptions R226, R232). -/
abbrev Overflowed (s t : State) : Prop :=
  t.faultReg = .counterOverflow ∧ t.phase = .halt ∧ t.responses = s.responses ∧ SlotsKept s t ∧
    t.pending = s.pending ∧ t.bus = s.bus

/-- From `s` to `t` one micro-operation has returned a value, or none, inside the engine: nothing the host sees, no slot, no
status has changed. The scratch registers are left to the statement that uses this. -/
abbrev Delivered (s t : State) (v : Option BusValue) : Prop :=
  t.bus = v ∧ SlotsKept s t ∧ t.faultReg = s.faultReg ∧ t.phase = s.phase ∧ t.responses = s.responses ∧
    t.pending = s.pending

end Sys2Proof.Safety
end

