-- ==== Sys2Proof/Certificates/Slice0/Obligations.lean ====
section
/-! DEFINITION. The statements for the provers. Each docstring names the spec's sentence or section it formalises; a statement
that rests on a decision of the spec (92_eei_decisions) or on a choice of the model says so. The scratch registers after a
command of the host are unspecified (10_state R25 to R28, U7) and no statement says what they hold. -/

open Sys2Proof Sys2Proof.Machine Sys2Proof.Safety

/-! ### Encoding and the step -/

/-- Decoding the packet of a well-formed operation, at its port, gives the operation back, every operand included. Codes and
labels are the spec's own choice (30_encoding section 2, D2); that operands are typed values is log 12. -/
def Obligations.DecodeOfEncodeIsInstruction : Prop :=
  ∀ i : Instr, i.wellFormed = true → decode i.port (encode i) = .ok i

/-- What a port accepts is the packet of a well-formed operation of that port, so each accepted packet has one meaning
(30_encoding section 2, D2, D4; log 12). -/
def Obligations.AcceptedPacketIsItsEncoding : Prop :=
  ∀ (port : Port) (p : Packet) (i : Instr),
    decode port p = .ok i → i.wellFormed = true ∧ i.port = port ∧ encode i = p

/-- A running engine refuses at the host port, by name, the code 0x00, the codes 0x08 to 0x7F and every code with bit 7 set
(30_encoding section 2, "Reserved and illegal codes", D4). -/
def Obligations.HostPortRefusesOtherCodes : Prop :=
  ∀ (s : State) (p : Packet) (rest : List Event),
    s.pending = .present .host p :: rest → Running s → (p.code = 0 ∨ 8 ≤ p.code.toNat) →
      step s = .refused (.undecodable (if p.code.msb then .notHostIssuable p.code else .unassignedCode p.code))

/-- A few codes of the tables of 30_encoding section 2 decode to their operations (D2; the zero operands are log 12). -/
def Obligations.TableWordsDecodeToTheirOperations : Prop :=
  decodeTableWord 8 0x02 = some .ctxDestroy ∧ decodeTableWord 8 0x06 = some .ksgNext ∧
    decodeTableWord 8 0x03 = some (.sealRecord 0 [] []) ∧ decodeTableWord 8 0x80 = some (.qr 0 4 8 12) ∧
    decodeTableWord 8 0x92 = some .p1305Final ∧ decodeTableWord 8 0x00 = none ∧ decodeTableWord 8 0x84 = none

/-- A step of a running engine performs what the packet presented first decodes to, on the state from which that packet has
been taken; with nothing presented, nothing changes (00_scope section 7; the queue of presentations is log 3). -/
def Obligations.StepPerformsDecodedOperation : Prop :=
  (∀ (s : State) (port : Port) (p : Packet) (rest : List Event) (i : Instr),
    s.pending = .present port p :: rest → Running s → decode port p = .ok i →
      step s = exec i { s with pending := rest }) ∧
  (∀ s : State, s.pending = [] → Running s → step s = .next s)

/-- A table word placed in a running engine is what the very next step performs, on the state it was placed in (log 3,
log 12). -/
def Obligations.PlacedTableWordIsPerformedNext : Prop :=
  ∀ (s : State) (nbits w : Nat) (i : Instr),
    decodeTableWord nbits w = some i → Running s → step (s.withFetchWord nbits w) = exec i s

/-- Reset, presented between commands, is taken in every state, halted ones included: both slots are invalid and zeroed,
FAULT is none and PHASE is IDLE (70_reset_and_hazards section 1, D5; that the host's own two lists stay is log 3 and log 4). -/
def Obligations.ResetRestoresEveryState : Prop :=
  ∀ (s : State) (rest : List Event), s.pending = .reset :: rest →
    ∃ t, step s = .next t ∧ t.ctx.valid = false ∧ t.ksg.valid = false ∧ t.ksg.ctr = 0 ∧ t.ksg.ovf = false ∧
      (∀ i (h : i < 32), t.ctx.key[i] = 0 ∧ t.ksg.key[i] = 0) ∧ (∀ i (h : i < 12), t.ctx.pre[i] = 0 ∧ t.ksg.nonce[i] = 0) ∧
      t.faultReg = .none ∧ t.phase = .idle ∧ t.pending = rest ∧ t.responses = s.responses

/-- What the state after reset holds: every slot field, FAULT and PHASE (10_state section 10, D5). -/
def Obligations.ResetValues : Prop :=
  State.reset.ctx.valid = false ∧ State.reset.ksg.valid = false ∧
    (∀ i (h : i < 32), State.reset.ctx.key[i] = 0 ∧ State.reset.ksg.key[i] = 0) ∧
    (∀ i (h : i < 12), State.reset.ctx.pre[i] = 0 ∧ State.reset.ksg.nonce[i] = 0) ∧
    State.reset.ksg.ctr = 0 ∧ State.reset.ksg.ovf = false ∧ State.reset.faultReg = .none ∧ State.reset.phase = .idle

/-! ### Invariants and whole-machine rules -/

/-- The invariants of 10_state section 9 hold after reset. -/
def Obligations.SlotInvariantAtReset : Prop := SlotInvariant State.reset

/-- Every step keeps the invariants of 10_state section 9: a slot that is not valid is zeroed, an overflow bit belongs to a
valid slot at the last counter, PHASE is IDLE when FAULT = none and HALT otherwise. -/
def Obligations.StepKeepsSlotInvariant : Prop :=
  ∀ s t : State, SlotInvariant s → step s = .next t → SlotInvariant t

/-- A halted engine performs no operation, whatever its code (60_exceptions section 5, D8; that the model stops by name is
U11, log 7). -/
def Obligations.HaltedEnginePerformsNothing : Prop :=
  ∀ (i : Instr) (s : State), ¬ Running s → exec i s = .fault .halted

/-- FAULT is cleared only by reset: the only step that leads on from a halted engine is one that takes a reset, and it clears
FAULT (10_state section 4, D8). -/
def Obligations.OnlyResetLeavesHalt : Prop :=
  ∀ s t : State, ¬ Running s → step s = .next t → Running t ∧ ∃ rest, s.pending = .reset :: rest

/-- FAULT is set in no other place than where a block counter above 0xFFFFFFFF would be needed, and then nothing is returned
and no slot has changed. The spec names three places, KSG_NEXT, SEAL and OPEN (60_exceptions section 1, D7, D8); that KS_XOR,
performed by itself, halts the engine too is the model's choice, log 1. -/
def Obligations.OnlyCounterOverflowHalts : Prop :=
  ∀ (i : Instr) (s t : State), Running s → exec i s = .next t → ¬ Running t →
    Overflowed s t ∧
      ((i = .ksgNext ∧ s.ksg.ovf = true) ∨
       (∃ seq aad pt, i = .sealRecord seq aad pt ∧ Config.maxMsg < pt.length) ∨
       (∃ seq dst aad ctt, i = .openRecord seq dst aad ctt ∧ Config.maxMsg < ctt.length - 16) ∨
       (∃ key nonce ctr0 data, i = .ksXor key nonce ctr0 data ∧ 2 ^ 32 < ctr0.toNat + blocksNeeded data.length))

/-- An operand outside its domain is refused by every operation (60_exceptions section 5, U10; which domains is log 13). -/
def Obligations.OperandOutsideDomainRefused : Prop :=
  ∀ (i : Instr) (s : State), Running s → i.wellFormed = false → exec i s = .refused .operandOutsideDomain

/-- SEAL, OPEN and CTX_DESTROY are refused without a constructed context, KSG_NEXT and KSG_DESTROY without a constructed
generator (43_aead CTX_DESTROY, 41_keystream_generator KSG_NEXT, D6). -/
def Obligations.UnconstructedSlotRefused : Prop :=
  ∀ s : State, Running s →
    (s.ctx.valid = false →
      exec .ctxDestroy s = .refused .contextNotConstructed ∧
      (∀ seq aad pt, (Instr.sealRecord seq aad pt).wellFormed = true →
        exec (.sealRecord seq aad pt) s = .refused .contextNotConstructed) ∧
      (∀ seq dst aad ctt, (Instr.openRecord seq dst aad ctt).wellFormed = true →
        exec (.openRecord seq dst aad ctt) s = .refused .contextNotConstructed)) ∧
    (s.ksg.valid = false →
      exec .ksgNext s = .refused .generatorNotConstructed ∧ exec .ksgDestroy s = .refused .generatorNotConstructed)

/-- No command reads what a scratch register held before it: with any other scratch contents it ends the same way, with the
same response and the same state (10_state sections 6 to 8 and 10). That the scratch registers agree afterwards too is the
model's own and no claim about the engine, where they are unspecified (U7): both runs take the free values of one counter,
log 6. -/
def Obligations.CommandsReadNoScratch : Prop :=
  ∀ (i : Instr) (s : State) (sc : Scratch), i.port = .host → exec i { s with scratch := sc } = exec i s

/-- The two slots are independent: a command that acts on one neither writes nor reads the other, so it ends the same way
whatever the other holds (10_state section 1). That the scratch registers agree afterwards too is the model's own and no claim
about the engine, where they are unspecified (U7): both runs take the free values of one counter, log 6. -/
def Obligations.SlotsAreIndependent : Prop :=
  (∀ (i : Instr) (s t : State) (c : CtxSlot), exec i s = .next t →
    (i = .ksgNext ∨ i = .ksgDestroy ∨ ∃ key nonce ctr0, i = .ksgInit key nonce ctr0) →
      t.ctx = s.ctx ∧ exec i { s with ctx := c } = .next { t with ctx := c }) ∧
  (∀ (i : Instr) (s t : State) (k : KsgSlot), exec i s = .next t →
    (i = .ctxDestroy ∨ (∃ key pre, i = .ctxInit key pre) ∨ (∃ seq aad pt, i = .sealRecord seq aad pt) ∨
      ∃ seq dst aad ctt, i = .openRecord seq dst aad ctt) →
      t.ksg = s.ksg ∧ exec i { s with ksg := k } = .next { t with ksg := k })

/-- No micro-operation changes a slot or returns anything to the host (00_scope section 5, "Commands, micro-operations and
functions"; that a micro-operation runs by itself is log 1). -/
def Obligations.MicroOperationsStayInside : Prop :=
  ∀ (i : Instr) (s t : State), i.port = .sequencer → exec i s = .next t →
    SlotsKept s t ∧ t.responses = s.responses ∧ t.pending = s.pending

/-- Every command that does not halt the engine returns exactly one response, at the end of those returned before, and one
that does returns none (30_encoding section 2, "Result codes", D3; the list of responses is log 4). -/
def Obligations.OneResponsePerCommand : Prop :=
  ∀ (i : Instr) (s t : State), i.port = .host → exec i s = .next t →
    (Running t → ∃ r, t.responses = s.responses ++ [r]) ∧ (¬ Running t → t.responses = s.responses)

/-! ### ChaCha20 core -/

/-- QR performs the twelve steps on the four words at its indices, in that order, modulo 2^32, and writes no other word and no
other register (40_chacha20_core QR; the order of the steps is the spec's own, G3). -/
def Obligations.QuarterRoundSteps : Prop :=
  ∀ (a b c d : Fin 16) (s : State), Running s → indicesDistinct a b c d = true →
    ∃ t, exec (.qr a b c d) s = .next t ∧ Delivered s t none ∧ t.scratch = { s.scratch with w := t.scratch.w } ∧
      (t.scratch.w[a].toNat, t.scratch.w[b].toNat, t.scratch.w[c].toNat, t.scratch.w[d].toNat) =
        quarterSteps s.scratch.w[a].toNat s.scratch.w[b].toNat s.scratch.w[c].toNat s.scratch.w[d].toNat ∧
      ∀ i : Fin 16, i ≠ a → i ≠ b → i ≠ c → i ≠ d → t.scratch.w[i] = s.scratch.w[i]

/-- QR is a bijection on 128 bits: no two inputs collide (40_chacha20_core QR, properties, (d)). -/
def Obligations.QuarterRoundInjective : Prop := ∀ p q : Quad, quarterRound p = quarterRound q → p = q

/-- DROUND is a column half and then a diagonal half, each four lanes: lane `c` of the first is QR on words `c`, `4 + c`,
`8 + c`, `12 + c` of the matrix it finds, lane `c` of the second QR on words `c`, `4 + (c+1) mod 4`, `8 + (c+2) mod 4`,
`12 + (c+3) mod 4` of what the first half left (40_chacha20_core DROUND; the index sets are the spec's own, G4). -/
def Obligations.DoubleRoundLanes : Prop :=
  ∀ s : State, Running s →
    ∃ (t : State) (m : Matrix), exec .dround s = .next t ∧ Delivered s t none ∧
      t.scratch = { s.scratch with w := t.scratch.w } ∧
      ∀ c (_ : c < 4),
        quarterRound { a := s.scratch.w[c], b := s.scratch.w[4 + c], c := s.scratch.w[8 + c], d := s.scratch.w[12 + c] } =
          { a := m[c], b := m[4 + c], c := m[8 + c], d := m[12 + c] } ∧
        quarterRound { a := m[c], b := m[4 + (c + 1) % 4], c := m[8 + (c + 2) % 4], d := m[12 + (c + 3) % 4] } =
          { a := t.scratch.w[c], b := t.scratch.w[4 + (c + 1) % 4], c := t.scratch.w[8 + (c + 2) % 4]
            d := t.scratch.w[12 + (c + 3) % 4] }

/-- CC20_INIT, label 0x82, writes every word of W from its operands, four constants, eight little-endian key words, the counter
as it is, three little-endian nonce words, and W0 is the same; no other register is written (40_chacha20_core CC20_INIT). The
constants' values and the order of the words are the spec's general knowledge, G1 and G2, log 15; that a micro-operation runs by
itself is log 1. -/
def Obligations.InitialMatrixLayout : Prop :=
  ∀ (key : Key) (ctr : Word) (nonce : Nonce) (s : State), Running s →
    ∃ t, exec (.cc20Init key ctr nonce) s = .next t ∧ Delivered s t none ∧
      t.scratch = { s.scratch with w := t.scratch.w, w0 := t.scratch.w } ∧
      t.scratch.w[0] = 0x61707865#32 ∧ t.scratch.w[1] = 0x3320646e#32 ∧ t.scratch.w[2] = 0x79622d32#32 ∧
      t.scratch.w[3] = 0x6b206574#32 ∧
      (∀ j (h : j < 8), t.scratch.w[4 + j].toNat = le32At key (4 * j) (by omega)) ∧
      t.scratch.w[12] = ctr ∧
      (∀ j (h : j < 3), t.scratch.w[13 + j].toNat = le32At nonce (4 * j) (by omega)) ∧
      (encode (.cc20Init key ctr nonce)).code = 0x82

/-- CC20_BLOCK, label 0x83, leaves W and W0 as CC20_INIT and then exactly ten DROUNDs, performed one by one, leave them, and
returns 64 bytes: byte `4i + j` is byte `j`, little-endian, of word `i` of W plus word `i` of W0, modulo 2^32; no other
register is written (40_chacha20_core R125, R126; that a micro-operation runs by itself is log 1). -/
def Obligations.BlockIsTenDoubleRoundsFedForward : Prop :=
  ∀ (key : Key) (ctr : Word) (nonce : Nonce) (s : State), Running s →
    ∃ (t u : State) (out : Block), exec (.cc20Block key ctr nonce) s = .next t ∧
      Delivered s t (some (.bytes out.toList)) ∧
      performAll (.cc20Init key ctr nonce :: List.replicate 10 .dround) s = .next u ∧ t.scratch = u.scratch ∧
      (∀ i j (hi : i < 16) (hj : j < 4),
        out[4 * i + j].toNat = (u.scratch.w[i].toNat + u.scratch.w0[i].toNat) % 2 ^ 32 / 2 ^ (8 * j) % 2 ^ 8) ∧
      t.scratch = { s.scratch with w := t.scratch.w, w0 := t.scratch.w0 } ∧
      (encode (.cc20Block key ctr nonce)).code = 0x83

/-! ### Keystream generator -/

/-- KSG_INIT, code 0x05: a key that is not 32 bytes is InvalidKeyLength, then a nonce that is not 12 is InvalidNonceLength, and
either leaves both slots as they were; otherwise the result is OK and the generator slot holds key, nonce and the given
counter, its overflow bit clear, valid, whatever it held; CTX stays (41_keystream_generator KSG_INIT). The order of the checks
is D10, the kept slot after a failure and the replacement of a live one D21: log 11. -/
def Obligations.GeneratorConstructed : Prop :=
  ∀ (key nonce : Bytes) (ctr0 : Word) (s : State), Running s →
    ∃ t, exec (.ksgInit key nonce ctr0) s = .next t ∧ (encode (.ksgInit key nonce ctr0)).code = 0x05 ∧
      if key.length ≠ 32 then Replied s t { result := .invalidKeyLength, output := none, buffer := none } ∧ SlotsKept s t
      else if nonce.length ≠ 12 then
        Replied s t { result := .invalidNonceLength, output := none, buffer := none } ∧ SlotsKept s t
      else
        Replied s t { result := .ok, output := none, buffer := none } ∧ t.ctx = s.ctx ∧ t.ksg.valid = true ∧
          t.ksg.key.toList = key ∧ t.ksg.nonce.toList = nonce ∧ t.ksg.ctr = ctr0 ∧ t.ksg.ovf = false

/-- InvalidKeyLength is the result of CTX_INIT and KSG_INIT exactly when the key is not 32 bytes long, and then no slot has
changed (60_exceptions section 1). That the key is reported when both lengths are wrong is D10, the kept slot D21: log 11. -/
def Obligations.KeyLengthChecked : Prop :=
  ∀ (i : Instr) (key other : Bytes) (ctr0 : Word) (s : State), Running s →
    (i = .ctxInit key other ∨ i = .ksgInit key other ctr0) →
      ∃ t r, exec i s = .next t ∧ Replied s t r ∧ (r.result = .invalidKeyLength ↔ key.length ≠ 32) ∧
        (key.length ≠ 32 → SlotsKept s t ∧ r.output = none)

/-- InvalidNonceLength is the result of CTX_INIT and KSG_INIT exactly when the key is 32 bytes long and the prefix or nonce is
not 12, and then no slot has changed (60_exceptions section 1). That the key is checked first is D10, the kept slot D21:
log 11. -/
def Obligations.NonceLengthChecked : Prop :=
  ∀ (i : Instr) (key other : Bytes) (ctr0 : Word) (s : State), Running s →
    (i = .ctxInit key other ∨ i = .ksgInit key other ctr0) →
      ∃ t r, exec i s = .next t ∧ Replied s t r ∧
        (r.result = .invalidNonceLength ↔ key.length = 32 ∧ other.length ≠ 12) ∧
        (key.length = 32 → other.length ≠ 12 → SlotsKept s t ∧ r.output = none)

/-- KSG_NEXT on a constructed generator: with the overflow bit clear it returns the block of the counter it finds, and the
counter goes one up, or, at 0xFFFFFFFF, stays and the overflow bit is set; with the overflow bit set it takes the fault
CounterOverflow and returns nothing. Key, nonce and CTX stay. (The edge at 0xFFFFFFFF is D7, log 9.) -/
def Obligations.NextKeystreamBlock : Prop :=
  ∀ s : State, Running s → s.ksg.valid = true →
    ∃ t, exec .ksgNext s = .next t ∧
      (s.ksg.ovf = true → Overflowed s t) ∧
      (s.ksg.ovf = false →
        Replied s t { result := .ok, output := some (cc20Block s.ksg.key s.ksg.ctr s.ksg.nonce).toList, buffer := none } ∧
        t.ctx = s.ctx ∧ t.ksg.valid = true ∧ t.ksg.key = s.ksg.key ∧ t.ksg.nonce = s.ksg.nonce ∧
        (s.ksg.ctr.toNat < 2 ^ 32 - 1 → t.ksg.ctr.toNat = s.ksg.ctr.toNat + 1 ∧ t.ksg.ovf = false) ∧
        (s.ksg.ctr.toNat = 2 ^ 32 - 1 → t.ksg.ctr = s.ksg.ctr ∧ t.ksg.ovf = true))

/-- After a successful construction, `n` KSG_NEXT commands with no other command between them return the blocks of the
counters ctr0, ctr0 + 1, …, ctr0 + n − 1, as long as ctr0 + n − 1 is at most 0xFFFFFFFF (41_keystream_generator, "The block
sequence"; block 0xFFFFFFFF is D7, log 9). -/
def Obligations.BlockSequence : Prop :=
  ∀ (n : Nat) (s : State), Running s → s.ksg.valid = true → s.ksg.ovf = false → s.ksg.ctr.toNat + n ≤ 2 ^ 32 →
    ∃ t, performAll (List.replicate n .ksgNext) s = .next t ∧ Running t ∧
      t.responses = s.responses ++ (List.range n).map fun j =>
        { result := .ok, buffer := none
          output := some (cc20Block s.ksg.key (BitVec.ofNat 32 (s.ksg.ctr.toNat + j)) s.ksg.nonce).toList }

/-- KSG_DESTROY on a constructed generator returns OK and leaves the slot as reset does; CTX stays
(41_keystream_generator KSG_DESTROY, D20). -/
def Obligations.GeneratorDestroyed : Prop :=
  ∀ s : State, Running s → s.ksg.valid = true →
    ∃ t, exec .ksgDestroy s = .next t ∧ Replied s t { result := .ok, output := none, buffer := none } ∧
      t.ctx = s.ctx ∧ t.ksg = State.reset.ksg ∧ t.ksg.valid = false

/-- KS_XOR masks byte `p` with byte `p mod 64` of the block of counter `ctr0 + floor(p / 64)`, keeps the length, leaves the
scratch counter after the blocks it made, and writes nothing but W, W0, S.ctr and S.ovf, as long as no counter above
0xFFFFFFFF is needed (41_keystream_generator KS_XOR). -/
def Obligations.KeystreamMasking : Prop :=
  ∀ (key : Key) (nonce : Nonce) (ctr0 : Word) (data : Bytes) (s : State), Running s →
    ctr0.toNat + blocksNeeded data.length ≤ 2 ^ 32 →
    ∃ t, exec (.ksXor key nonce ctr0 data) s = .next t ∧
      Delivered s t (some (.bytes (keystreamMask key nonce ctr0.toNat data))) ∧
      (keystreamMask key nonce ctr0.toNat data).length = data.length ∧
      t.scratch.ctr.toNat = min (ctr0.toNat + blocksNeeded data.length) (2 ^ 32 - 1) ∧
      t.scratch.ovf = decide (ctr0.toNat + blocksNeeded data.length = 2 ^ 32) ∧
      t.scratch =
        { s.scratch with w := t.scratch.w, w0 := t.scratch.w0, ctr := t.scratch.ctr, ovf := t.scratch.ovf }

/-- KS_XOR, performed by itself, takes the fault CounterOverflow when its data need a counter above 0xFFFFFFFF: no data come
out (41_keystream_generator KS_XOR and its properties, (g); D7, log 9). That it halts the engine as a command's fault does is
the model's choice, log 1: inside SEAL and OPEN it cannot fault. -/
def Obligations.MaskingPastLastCounterFaults : Prop :=
  ∀ (key : Key) (nonce : Nonce) (ctr0 : Word) (data : Bytes) (s : State), Running s →
    2 ^ 32 < ctr0.toNat + blocksNeeded data.length →
    ∃ t, exec (.ksXor key nonce ctr0 data) s = .next t ∧ Overflowed s t

/-- KS_XOR is an involution: masking what it gave, with the same key, nonce and counter, gives the data back
(41_keystream_generator KS_XOR, properties, (d)). -/
def Obligations.MaskingIsInvolution : Prop :=
  ∀ (key : Key) (nonce : Nonce) (ctr0 : Word) (x y : Bytes) (s t u : State),
    exec (.ksXor key nonce ctr0 x) s = .next t → t.bus = some (.bytes y) → Running t → Running u →
      ∃ v, exec (.ksXor key nonce ctr0 y) u = .next v ∧ v.bus = some (.bytes x)

/-! ### Poly1305 -/

/-- P1305_CLAMP reads both halves of the one-time key little-endian, clears in the first exactly the bits 28 to 31 of each
32-bit quarter and the bits 0 and 1 of the three upper quarters, and clears the accumulator; nothing else is written
(42_poly1305 P1305_CLAMP and 30_encoding section 1.2; mask and halves are the spec's own, G5, G6). -/
def Obligations.ClampLoadsOneTimeKey : Prop :=
  ∀ (otk : Otk) (s : State), Running s →
    ∃ t, exec (.p1305Clamp otk) s = .next t ∧ Delivered s t none ∧
      (∀ i, i < 128 → t.scratch.r.getLsbD i =
        ((leNat (otk.toList.take 16)).testBit i && !(decide (28 ≤ i % 32) || (decide (32 ≤ i) && decide (i % 32 < 2))))) ∧
      t.scratch.s.toNat = leNat (otk.toList.drop 16) ∧ t.scratch.acc = 0 ∧
      t.scratch = { s.scratch with r := t.scratch.r, s := t.scratch.s, acc := t.scratch.acc }

/-- P1305_BLOCK adds the block's little-endian value and its marker bit to the accumulator, multiplies by P.r, and leaves the
canonical residue modulo 2^130 − 5; it writes nothing else, and its label is 0x91 (42_poly1305 R162; that a micro-operation runs
by itself is log 1). -/
def Obligations.BlockAbsorbed : Prop :=
  ∀ (m : Bytes) (s : State), Running s → 1 ≤ m.length → m.length ≤ 16 →
    ∃ t, exec (.p1305Block m) s = .next t ∧ Delivered s t none ∧
      t.scratch.acc.toNat =
        (s.scratch.acc.toNat + (leNat m + 2 ^ (8 * m.length))) * s.scratch.r.toNat % (2 ^ 130 - 5) ∧
      t.scratch.acc.toNat < 2 ^ 130 - 5 ∧ t.scratch = { s.scratch with acc := t.scratch.acc } ∧
      (encode (.p1305Block m)).code = 0x91

/-- P1305_FINAL returns the 16 little-endian bytes of (P.acc + P.s) mod 2^128 and writes no register; its label is 0x92
(42_poly1305 R164; that a micro-operation runs by itself is log 1). -/
def Obligations.FinalTag : Prop :=
  ∀ s : State, Running s →
    ∃ (t : State) (tag : Tag), exec .p1305Final s = .next t ∧ Delivered s t (some (.bytes tag.toList)) ∧
      leNat tag.toList = (s.scratch.acc.toNat + s.scratch.s.toNat) % 2 ^ 128 ∧ t.scratch = s.scratch ∧
      (encode .p1305Final).code = 0x92

/-- P1305_MAC, label 0x93, is P1305_CLAMP, then P1305_BLOCK on bytes 16i to min(16i + 16, L) of the message for i from 0 to
ceil(L / 16) − 1, then P1305_FINAL: performed one by one they leave the very same state and return the same tag. That tag is
the polynomial of the blocks at P.r modulo 2^130 − 5, plus P.s, modulo 2^128, in 16 little-endian bytes; only P.r, P.s and
P.acc are written (42_poly1305 R163, R166; that a micro-operation runs by itself is log 1). -/
def Obligations.MacIsItsMicroOperations : Prop :=
  ∀ (otk : Otk) (msg : Bytes) (s : State), Running s →
    ∃ (t : State) (tag : Tag), exec (.p1305Mac otk msg) s = .next t ∧ Delivered s t (some (.bytes tag.toList)) ∧
      performAll (.p1305Clamp otk :: ((messageBlocks msg).map .p1305Block ++ [.p1305Final])) s = .next t ∧
      leNat tag.toList =
        (polySum t.scratch.r.toNat ((messageBlocks msg).map fun m => leNat m + 2 ^ (8 * m.length)) % (2 ^ 130 - 5) +
          t.scratch.s.toNat) % 2 ^ 128 ∧
      t.scratch = { s.scratch with r := t.scratch.r, s := t.scratch.s, acc := t.scratch.acc } ∧
      (encode (.p1305Mac otk msg)).code = 0x93

/-- For the empty message, and for a clamped r of zero and any message, the tag is the second half of the one-time key
unchanged (42_poly1305 P1305_MAC, corner cases (a) and (b)). -/
def Obligations.MacCornerCases : Prop :=
  ∀ (otk : Otk) (msg : Bytes) (s : State), Running s → (msg = [] ∨ clampedR otk = 0) →
    ∃ t, exec (.p1305Mac otk msg) s = .next t ∧ t.bus = some (.bytes (otk.toList.drop 16))

/-! ### AEAD composer -/

/-- CTX_INIT, code 0x01: a key that is not 32 bytes is InvalidKeyLength, then a prefix that is not 12 is InvalidNonceLength,
and either leaves both slots as they were; otherwise the result is OK and the context slot holds key and prefix, valid,
whatever it held; KSG stays (43_aead CTX_INIT). The order of the checks is D10, the kept slot after a failure and the
replacement of a live one D21: log 11. -/
def Obligations.ContextConstructed : Prop :=
  ∀ (key pre : Bytes) (s : State), Running s →
    ∃ t, exec (.ctxInit key pre) s = .next t ∧ (encode (.ctxInit key pre)).code = 0x01 ∧
      if key.length ≠ 32 then Replied s t { result := .invalidKeyLength, output := none, buffer := none } ∧ SlotsKept s t
      else if pre.length ≠ 12 then
        Replied s t { result := .invalidNonceLength, output := none, buffer := none } ∧ SlotsKept s t
      else
        Replied s t { result := .ok, output := none, buffer := none } ∧ t.ksg = s.ksg ∧ t.ctx.valid = true ∧
          t.ctx.key.toList = key ∧ t.ctx.pre.toList = pre

/-- CTX_DESTROY on a constructed context returns OK and leaves the slot as reset does: key and prefix zero, not valid; KSG
stays (43_aead CTX_DESTROY, D20). -/
def Obligations.ContextDestroyed : Prop :=
  ∀ s : State, Running s → s.ctx.valid = true →
    ∃ t, exec .ctxDestroy s = .next t ∧ Replied s t { result := .ok, output := none, buffer := none } ∧
      t.ksg = s.ksg ∧ t.ctx = State.reset.ctx ∧ t.ctx.valid = false

/-- AEAD_NONCE: bytes 0 to 3 of the nonce are the prefix's; byte `4 + j` is the prefix's XOR byte `7 − j` of the sequence
number, most significant first; no register is written (43_aead AEAD_NONCE, D11, log 10). -/
def Obligations.NonceDerivation : Prop :=
  ∀ (pre : Nonce) (seq : BitVec 64) (s : State), Running s →
    ∃ (t : State) (n : Nonce), exec (.aeadNonce pre seq) s = .next t ∧ Delivered s t (some (.bytes n.toList)) ∧
      t.scratch = s.scratch ∧ (∀ i (h : i < 4), n[i] = pre[i]) ∧
      ∀ j (h : j < 8), n[4 + j] = pre[4 + j] ^^^ seq.extractLsb' (8 * (7 - j)) 8

/-- For one prefix, different sequence numbers give different nonces (43_aead AEAD_NONCE, properties, (b); D11, log 10). -/
def Obligations.NonceNeverRepeats : Prop :=
  ∀ (pre : Nonce) (q q' : BitVec 64) (s t s' t' : State),
    exec (.aeadNonce pre q) s = .next t → exec (.aeadNonce pre q') s' = .next t' → t.bus = t'.bus → q = q'

/-- AEAD_OTK, label 0xA1, returns, and leaves in S.otk, the first 32 bytes of the block of counter 0; the scratch generator is
left at counter 1 with its overflow bit clear, and W and W0 as CC20_BLOCK leaves them; nothing else is written
(43_aead R186; that a micro-operation runs by itself is log 1). -/
def Obligations.OneTimeKeyFromBlockZero : Prop :=
  ∀ (key : Key) (nonce : Nonce) (s : State), Running s →
    ∃ (t u : State) (blk : Block), exec (.aeadOtk key nonce) s = .next t ∧ exec (.cc20Block key 0 nonce) s = .next u ∧
      u.bus = some (.bytes blk.toList) ∧ Delivered s t (some (.bytes (blk.toList.take 32))) ∧
      t.scratch.otk.toList = blk.toList.take 32 ∧ t.scratch.ctr = 1 ∧ t.scratch.ovf = false ∧
      t.scratch = { u.scratch with otk := t.scratch.otk, ctr := t.scratch.ctr, ovf := t.scratch.ovf } ∧
      (encode (.aeadOtk key nonce)).code = 0xA1

/-- AEAD_MACDATA returns the associated data, zero bytes up to a multiple of 16, the ciphertext, zero bytes up to a multiple
of 16, and the two lengths in 8 little-endian bytes each; the whole is a multiple of 16 bytes and at least 16; no register is
written (43_aead AEAD_MACDATA, 30_encoding section 1.3; the bounds are D8 and D15). -/
def Obligations.MacDataLayout : Prop :=
  ∀ (aad ct : Bytes) (s : State), Running s → aad.length ≤ Config.maxAad → ct.length ≤ Config.maxMsg →
    ∃ (t : State) (la lc out : Bytes), exec (.aeadMacdata aad ct) s = .next t ∧ Delivered s t (some (.bytes out)) ∧
      t.scratch = s.scratch ∧
      out = aad ++ List.replicate ((16 - aad.length % 16) % 16) 0 ++ ct ++ List.replicate ((16 - ct.length % 16) % 16) 0 ++
        la ++ lc ∧
      la.length = 8 ∧ leNat la = aad.length ∧ lc.length = 8 ∧ leNat lc = ct.length ∧
      out.length % 16 = 0 ∧ 16 ≤ out.length

/-- Different associated data or ciphertexts give different authenticated byte strings, because the true lengths are in them
(43_aead AEAD_MACDATA, corner cases (c) and (d)). -/
def Obligations.MacDataInjective : Prop :=
  ∀ (aad ct aad' ct' : Bytes) (s t s' t' : State),
    exec (.aeadMacdata aad ct) s = .next t → exec (.aeadMacdata aad' ct') s' = .next t' → t.bus = t'.bus →
      aad = aad' ∧ ct = ct'

/-- AEAD_TAG, label 0xA3, is AEAD_OTK and then P1305_MAC, under S.otk, of the authenticated byte string of AEAD_MACDATA:
performed one by one they return the same tag and leave the same registers, but for S.tag, which then holds it
(43_aead R194; that a micro-operation runs by itself is log 1; the bounds on the operands are D8, D15 and log 13). -/
def Obligations.TagOfRecord : Prop :=
  ∀ (key : Key) (nonce : Nonce) (aad ct : Bytes) (s : State), Running s → aad.length ≤ Config.maxAad →
    ct.length ≤ Config.maxMsg →
    ∃ t u v w x, exec (.aeadTag key nonce aad ct) s = .next t ∧
      exec (.aeadOtk key nonce) s = .next u ∧ exec (.aeadMacdata aad ct) u = .next v ∧
      v.bus = some (.bytes x) ∧ exec (.p1305Mac u.scratch.otk x) v = .next w ∧
      Delivered s t w.bus ∧ w.bus = some (.bytes t.scratch.tag.toList) ∧
      t.scratch = { w.scratch with tag := t.scratch.tag } ∧ (encode (.aeadTag key nonce aad ct)).code = 0xA3

/-- TAG_EQ answers equal exactly when the two tags are the same 16 bytes; S.diff, the OR of the byte differences, is 0 exactly
then, and nothing else is written; its label is 0xA4 (43_aead R196; that a micro-operation runs by itself is log 1). -/
def Obligations.TagComparison : Prop :=
  ∀ (a b : Tag) (s : State), Running s →
    ∃ t, exec (.tagEq a b) s = .next t ∧ Delivered s t (some (.verdict (decide (a = b)))) ∧
      (∀ k, k < 8 → (t.scratch.diff.getLsbD k = true ↔ ∃ i, ∃ h : i < 16, (a[i] ^^^ b[i]).getLsbD k = true)) ∧
      t.scratch = { s.scratch with diff := t.scratch.diff } ∧ (encode (.tagEq a b)).code = 0xA4

/-- SEAL on a constructed context returns OK with the plaintext masked from block 1 on, followed by the tag of the associated
data and that ciphertext, under the nonce derived from the prefix and the sequence number; no slot changes (43_aead SEAL;
the nonce is D11, log 10; the length bound D8; the one output string D19). -/
def Obligations.SealResult : Prop :=
  ∀ (seq : BitVec 64) (aad pt : Bytes) (s : State), Running s → s.ctx.valid = true → aad.length ≤ Config.maxAad →
    pt.length ≤ Config.maxMsg →
    ∃ t ct, ct = keystreamMask s.ctx.key (deriveNonce s.ctx.pre seq) 1 pt ∧
      exec (.sealRecord seq aad pt) s = .next t ∧ SlotsKept s t ∧
      Replied s t
        { result := .ok, buffer := none
          output := some (ct ++ (recordTag s.ctx.key (deriveNonce s.ctx.pre seq) aad ct).toList) }

/-- SEAL of a plaintext, and OPEN of a ciphertext, longer than MAX_MSG take the fault CounterOverflow: nothing comes out, no
slot changes (43_aead, "Length bound shared by SEAL and OPEN", D8). -/
def Obligations.OverlongRecordFaults : Prop :=
  ∀ (seq : BitVec 64) (dst : Option Bytes) (aad x : Bytes) (s : State), Running s → s.ctx.valid = true →
    aad.length ≤ Config.maxAad →
    (Config.maxMsg < x.length → ∃ t, exec (.sealRecord seq aad x) s = .next t ∧ Overflowed s t) ∧
    (Config.maxMsg < x.length - 16 → destinationInDomain dst x = true →
      ∃ t, exec (.openRecord seq dst aad x) s = .next t ∧ Overflowed s t)

/-- SEAL depends on CTX and its operands alone: two running engines with the same context give the same response
(43_aead SEAL, properties, (a)). -/
def Obligations.SealIsDeterministic : Prop :=
  ∀ (seq : BitVec 64) (aad pt : Bytes) (s s' t : State), Running s → Running s' → s'.ctx = s.ctx →
    exec (.sealRecord seq aad pt) s = .next t → Running t →
    ∃ t' r, exec (.sealRecord seq aad pt) s' = .next t' ∧ t.responses = s.responses ++ [r] ∧
      t'.responses = s'.responses ++ [r]

/-- MalformedInput is the result of OPEN exactly when its input is shorter than 16 bytes; then no plaintext comes out and
neither the buffer nor a slot has changed. -/
def Obligations.MalformedInputExactlyWhenShort : Prop :=
  ∀ (seq : BitVec 64) (dst : Option Bytes) (aad ctt : Bytes) (s : State), Running s → s.ctx.valid = true →
    (Instr.openRecord seq dst aad ctt).wellFormed = true →
    ∃ t, exec (.openRecord seq dst aad ctt) s = .next t ∧
      (ctt.length < 16 →
        Replied s t { result := .malformedInput, output := none, buffer := some (dst.getD ctt) } ∧ SlotsKept s t) ∧
      (∀ r, t.responses = s.responses ++ [r] → r.result = .malformedInput → ctt.length < 16)

/-- OPEN of a record whose last 16 bytes are the tag of its associated data and ciphertext returns OK with the ciphertext
unmasked from block 1 on, in the destination or over the first bytes of the ciphertext buffer, whose 16 tag bytes stay; no
slot changes (43_aead OPEN, 20_memory section 3; D8, D18; the nonce is D11, log 10). -/
def Obligations.OpenAccepts : Prop :=
  ∀ (seq : BitVec 64) (dst : Option Bytes) (aad ct : Bytes) (tag : Tag) (s : State), Running s → s.ctx.valid = true →
    aad.length ≤ Config.maxAad → ct.length ≤ Config.maxMsg → (∀ d, dst = some d → d.length = ct.length) →
    tag = recordTag s.ctx.key (deriveNonce s.ctx.pre seq) aad ct →
    ∃ t pt, pt = keystreamMask s.ctx.key (deriveNonce s.ctx.pre seq) 1 ct ∧
      exec (.openRecord seq dst aad (ct ++ tag.toList)) s = .next t ∧ SlotsKept s t ∧
      Replied s t
        { result := .ok, output := some pt
          buffer := some (match dst with | none => pt ++ tag.toList | some _ => pt) }

/-- OPEN of a record whose last 16 bytes are not that tag returns AuthenticationFailure and no output; its buffer is as it
was, or its first `len(ct)` bytes are all zero and the rest is as it was; no slot changes (43_aead OPEN and "The destination
after a failed OPEN"; D9, log 8: the statement holds for both values of the parameter; the nonce is D11, log 10). -/
def Obligations.OpenRejects : Prop :=
  ∀ (seq : BitVec 64) (dst : Option Bytes) (aad ct : Bytes) (tag : Tag) (s : State), Running s → s.ctx.valid = true →
    aad.length ≤ Config.maxAad → ct.length ≤ Config.maxMsg → (∀ d, dst = some d → d.length = ct.length) →
    tag ≠ recordTag s.ctx.key (deriveNonce s.ctx.pre seq) aad ct →
    ∃ t b, exec (.openRecord seq dst aad (ct ++ tag.toList)) s = .next t ∧ SlotsKept s t ∧
      Replied s t { result := .authenticationFailure, output := none, buffer := some b } ∧
      (b = dst.getD (ct ++ tag.toList) ∨
        b = List.replicate ct.length 0 ++ (dst.getD (ct ++ tag.toList)).drop ct.length)

/-- OPEN gives out a plaintext only if the received tag is the tag of the presented associated data and ciphertext, and then
no other plaintext than the ciphertext unmasked from block 1 on, with the result OK (43_aead, "Laws that connect SEAL and
OPEN", the exact statement of (b); 20_memory section 3, "Release of output"; the nonce is D11, log 10). -/
def Obligations.OpenReleasesOnlyVerifiedPlaintext : Prop :=
  ∀ (seq : BitVec 64) (dst : Option Bytes) (aad ctt pt : Bytes) (s t : State) (r : Response),
    exec (.openRecord seq dst aad ctt) s = .next t → t.responses = s.responses ++ [r] → r.output = some pt →
      16 ≤ ctt.length ∧ r.result = .ok ∧
      ctt.drop (ctt.length - 16) =
        (recordTag s.ctx.key (deriveNonce s.ctx.pre seq) aad (ctt.take (ctt.length - 16))).toList ∧
      pt = keystreamMask s.ctx.key (deriveNonce s.ctx.pre seq) 1 (ctt.take (ctt.length - 16))

/-- Opening what was sealed, with the same context, sequence number and associated data, on any running engine, in place or
to a destination, returns the plaintext (43_aead, "Laws that connect SEAL and OPEN", (a)). -/
def Obligations.SealThenOpenReturnsPlaintext : Prop :=
  ∀ (seq : BitVec 64) (dst : Option Bytes) (aad pt : Bytes) (s s' : State), Running s → Running s' →
    s.ctx.valid = true → s'.ctx = s.ctx → aad.length ≤ Config.maxAad → pt.length ≤ Config.maxMsg →
    (∀ d, dst = some d → d.length = pt.length) →
    ∃ t sealed t' b, exec (.sealRecord seq aad pt) s = .next t ∧
      Replied s t { result := .ok, output := some sealed, buffer := none } ∧
      exec (.openRecord seq dst aad sealed) s' = .next t' ∧
      Replied s' t' { result := .ok, output := some pt, buffer := some b }

/-- A sealed record whose tag has been changed in any bit fails to open (43_aead, "Laws that connect SEAL and OPEN", (b), the
part that is exact). -/
def Obligations.ChangedTagFailsToOpen : Prop :=
  ∀ (seq : BitVec 64) (aad pt ct : Bytes) (tag tag' : Tag) (s t s' : State) ,
    exec (.sealRecord seq aad pt) s = .next t →
    t.responses = s.responses ++ [{ result := .ok, output := some (ct ++ tag.toList), buffer := none }] →
    Running s' → s'.ctx = s.ctx → tag' ≠ tag →
    ∃ t' b, exec (.openRecord seq none aad (ct ++ tag'.toList)) s' = .next t' ∧
      Replied s' t' { result := .authenticationFailure, output := none, buffer := some b }

/-- In place or to a separate destination, OPEN ends with the same result and the same plaintext (20_memory section 3,
"In-place operation", D18). -/
def Obligations.InPlaceAndSeparateAgree : Prop :=
  ∀ (seq : BitVec 64) (aad ctt d : Bytes) (s t : State) (r : Response),
    exec (.openRecord seq none aad ctt) s = .next t → t.responses = s.responses ++ [r] →
    destinationInDomain (some d) ctt = true →
    ∃ t' r', exec (.openRecord seq (some d) aad ctt) s = .next t' ∧ t'.responses = s.responses ++ [r'] ∧
      r'.result = r.result ∧ r'.output = r.output

/-- SEAL is AEAD_NONCE, KS_XOR from counter 1, AEAD_TAG, and the ciphertext followed by the tag; OPEN is the length check,
AEAD_NONCE, AEAD_TAG, TAG_EQ, and then either failure or KS_XOR from counter 1; KSG_NEXT is CC20_BLOCK and an increment, or, at
0xFFFFFFFF, the overflow bit (D7, log 9): each returns what its micro-operations, performed one by one, put together
(30_encoding section 2, "Composite commands as expansions"; that a micro-operation runs by itself is log 1; the bounds on the
operands are D8, D15 and log 13). -/
def Obligations.CompositeCommandsAreTheirExpansions : Prop :=
  ∀ s : State, Running s →
    (∀ (seq : BitVec 64) (aad pt : Bytes), s.ctx.valid = true → aad.length ≤ Config.maxAad → pt.length ≤ Config.maxMsg →
      ∃ (n : Nonce) (ct : Bytes) (tag : Tag) (u v w t : State),
        exec (.aeadNonce s.ctx.pre seq) s = .next u ∧ u.bus = some (.bytes n.toList) ∧
        exec (.ksXor s.ctx.key n 1 pt) u = .next v ∧ v.bus = some (.bytes ct) ∧
        exec (.aeadTag s.ctx.key n aad ct) v = .next w ∧ w.bus = some (.bytes tag.toList) ∧
        exec (.sealRecord seq aad pt) s = .next t ∧
        Replied s t { result := .ok, output := some (ct ++ tag.toList), buffer := none }) ∧
    (∀ (seq : BitVec 64) (dst : Option Bytes) (aad short : Bytes), s.ctx.valid = true → aad.length ≤ Config.maxAad →
      short.length < 16 →
      ∃ t r, exec (.openRecord seq dst aad short) s = .next t ∧ Replied s t r ∧ r.result = .malformedInput ∧
        r.output = none) ∧
    (∀ (seq : BitVec 64) (dst : Option Bytes) (aad ct : Bytes) (received : Tag), s.ctx.valid = true →
      aad.length ≤ Config.maxAad → ct.length ≤ Config.maxMsg → (∀ d, dst = some d → d.length = ct.length) →
      ∃ (n : Nonce) (tag : Tag) (equal : Bool) (u v w t : State) (r : Response),
        exec (.aeadNonce s.ctx.pre seq) s = .next u ∧ u.bus = some (.bytes n.toList) ∧
        exec (.aeadTag s.ctx.key n aad ct) u = .next v ∧ v.bus = some (.bytes tag.toList) ∧
        exec (.tagEq tag received) v = .next w ∧ w.bus = some (.verdict equal) ∧
        exec (.openRecord seq dst aad (ct ++ received.toList)) s = .next t ∧ Replied s t r ∧
        (equal = false → r.result = .authenticationFailure ∧ r.output = none) ∧
        (equal = true → ∃ x pt, exec (.ksXor s.ctx.key n 1 ct) w = .next x ∧ x.bus = some (.bytes pt) ∧
          r.result = .ok ∧ r.output = some pt)) ∧
    (s.ksg.valid = true → s.ksg.ovf = false →
      ∃ (u t : State) (out : Bytes), exec (.cc20Block s.ksg.key s.ksg.ctr s.ksg.nonce) s = .next u ∧
        u.bus = some (.bytes out) ∧ exec .ksgNext s = .next t ∧
        Replied s t { result := .ok, output := some out, buffer := none } ∧
        (s.ksg.ctr.toNat < 2 ^ 32 - 1 → t.ksg.ctr.toNat = s.ksg.ctr.toNat + 1 ∧ t.ksg.ovf = false) ∧
        (s.ksg.ctr.toNat = 2 ^ 32 - 1 → t.ksg.ctr = s.ksg.ctr ∧ t.ksg.ovf = true))
end

