-- ==== Sys2Proof/Laws/Operands.lean ====
section
/-! SUPPORT. Laws of the operand forms: byte order, buffers, slicing, padding and XOR. -/

namespace Sys2Proof.Machine

@[simp] theorem toList_vecOf {α : Type} {n : Nat} (l : List α) (h : l.length = n) : (vecOf l h).toList = l := by
  simp [vecOf, Vector.toList]

@[simp] theorem vecOf_toList {α : Type} {n : Nat} (v : Vector α n) (h : v.toList.length = n) : vecOf v.toList h = v := by
  simp [vecOf, Vector.toList]

theorem getElem_vecOf {α : Type} {n : Nat} (l : List α) (h : l.length = n) (i : Nat) (hi : i < n) :
    (vecOf l h)[i] = l[i]'(h ▸ hi) := by
  simp [vecOf]

theorem vec?_eq_some {n : Nat} {b : Bytes} {v : Vector Byte n} : vec? n b = some v ↔ b = v.toList := by
  constructor
  · intro e
    unfold vec? at e
    split at e
    · simp only [Option.some.injEq] at e
      rw [← e, toList_vecOf]
    · cases e
  · rintro rfl
    simp [vec?]

@[simp] theorem vec?_toList {n : Nat} (v : Vector Byte n) : vec? n v.toList = some v := vec?_eq_some.mpr rfl

theorem vec?_eq_none {n : Nat} {b : Bytes} : vec? n b = none ↔ b.length ≠ n := by
  unfold vec?
  split <;> simp_all

theorem exists_vec?_of_length {n : Nat} {b : Bytes} (h : b.length = n) :
    ∃ v : Vector Byte n, vec? n b = some v ∧ v.toList = b :=
  ⟨vecOf b h, by simp [vec?, h], by simp⟩

/-! ### Byte order -/

theorem leNat_append (a b : Bytes) : leNat (a ++ b) = leNat a + 256 ^ a.length * leNat b := by
  induction a with
  | nil => simp [leNat]
  | cons x xs ih => simp only [List.cons_append, leNat, ih, List.length_cons, Nat.pow_succ]; ring

theorem leNat_lt (b : Bytes) : leNat b < 256 ^ b.length := by
  induction b with
  | nil => simp [leNat]
  | cons x xs ih =>
    have := x.isLt
    simp only [leNat, List.length_cons, Nat.pow_succ]
    omega

theorem leNat_toLE (v n : Nat) : leNat (toLE v n) = v % 256 ^ n := by
  induction n generalizing v with
  | zero => simp [toLE, leNat, Nat.mod_one]
  | succ n ih =>
    have e : v % 256 ^ (n + 1) = v % 256 + 256 * (v / 256 % 256 ^ n) := by
      rw [Nat.pow_succ, Nat.mul_comm (256 ^ n), Nat.mod_mul]
    rw [toLE, leNat, ih, BitVec.toNat_ofNat, e]

theorem leNat_injective {a b : Bytes} (hl : a.length = b.length) (h : leNat a = leNat b) : a = b := by
  induction a generalizing b with
  | nil => cases b with
    | nil => rfl
    | cons => simp at hl
  | cons x xs ih =>
    cases b with
    | nil => simp at hl
    | cons y ys =>
      have hx := x.isLt
      have hy := y.isLt
      simp only [leNat] at h
      simp only [List.length_cons, Nat.succ.injEq] at hl
      have e1 : x.toNat = y.toNat := by omega
      have e2 : leNat xs = leNat ys := by omega
      rw [BitVec.eq_of_toNat_eq e1, ih hl e2]

theorem toLE_leNat (b : Bytes) : toLE (leNat b) b.length = b :=
  leNat_injective (toLE_length _ _) (by rw [leNat_toLE]; exact Nat.mod_eq_of_lt (leNat_lt b))

/-- Byte `j` of the little-endian form of `v` is bits `8j` to `8j + 7` of `v` (00_scope R10). -/
theorem toLE_getElem (v n j : Nat) (h : j < n) :
    (toLE v n)[j]'(by rw [toLE_length]; exact h) = BitVec.ofNat 8 (v / 256 ^ j) := by
  induction n generalizing v j with
  | zero => omega
  | succ n ih =>
    cases j with
    | zero => simp [toLE]
    | succ j =>
      simp only [toLE, List.getElem_cons_succ]
      rw [ih _ _ (by omega), Nat.div_div_eq_div_mul, Nat.pow_succ, Nat.mul_comm]

/-! ### Buffers -/

/-- Reading back what was written, where it fits (20_memory R50). -/
theorem memRead_memWrite (buf v : Bytes) (off : Nat) (h : off + v.length ≤ buf.length) :
    memRead (memWrite buf off v) off v.length = v := by
  unfold memRead memWrite
  have h1 : v.take (buf.length - off) = v := List.take_of_length_le (by omega)
  have h2 : (buf.take off).length = off := by simp; omega
  rw [h1, List.append_assoc, List.drop_append, h2]
  simp

/-- A write changes no other byte (20_memory R50). -/
theorem memWrite_getElem?_outside (buf v : Bytes) (off i : Nat) (h : off + v.length ≤ buf.length)
    (hi : i < off ∨ off + v.length ≤ i) : (memWrite buf off v)[i]? = buf[i]? := by
  unfold memWrite
  have h1 : v.take (buf.length - off) = v := List.take_of_length_le (by omega)
  have h2 : (buf.take off).length = off := by simp; omega
  rw [h1, List.append_assoc]
  rcases hi with hi | hi
  · rw [List.getElem?_append_left (by omega), List.getElem?_take]
    simp [hi]
  · rw [List.getElem?_append_right (by omega), List.getElem?_append_right (by omega), List.getElem?_drop, h2]
    congr 1
    omega

theorem memWrite_length (buf v : Bytes) (off : Nat) (h : off + v.length ≤ buf.length) :
    (memWrite buf off v).length = buf.length := by
  simp [memWrite]; omega

/-- A write from the start of a buffer that is long enough. -/
theorem memWrite_zero (buf v : Bytes) (h : v.length ≤ buf.length) : memWrite buf 0 v = v ++ buf.drop v.length := by
  simp [memWrite, List.take_of_length_le h]

theorem memRead_zero (buf : Bytes) (n : Nat) : memRead buf 0 n = buf.take n := by simp [memRead]

/-! ### Padding -/

theorem padLen_aligns (n : Nat) : (n + padLen n) % 16 = 0 := by unfold padLen; omega

theorem padLen_lt (n : Nat) : padLen n < 16 := by unfold padLen; omega

@[simp] theorem zeros_length (n : Nat) : (zeros n).length = n := by simp [zeros]

/-! ### XOR -/

theorem xorBytes_length (a b : Bytes) : (xorBytes a b).length = min a.length b.length := by simp [xorBytes]

/-! ### Pieces -/

theorem pieces_length (n k : Nat) (b : Bytes) : (pieces n k b).length = k := by
  induction k generalizing b with
  | zero => rfl
  | succ k ih => simp [pieces, ih]

theorem pieces_getElem (n k : Nat) (b : Bytes) (i : Nat) (h : i < k) :
    (pieces n k b)[i]'(by rw [pieces_length]; exact h) = memRead b (n * i) n := by
  induction k generalizing b i with
  | zero => omega
  | succ k ih =>
    cases i with
    | zero => simp [pieces, memRead]
    | succ i =>
      simp only [pieces, List.getElem_cons_succ]
      rw [ih _ _ (by omega)]
      simp [memRead, Nat.mul_succ, Nat.add_comm]

theorem blocksOf_nil (n : Nat) (h : 1 ≤ n) : blocksOf n [] = [] := by
  have : (n - 1) / n = 0 := Nat.div_eq_of_lt (by omega)
  simp [blocksOf, this, pieces]

/-- A non-empty string is its first piece followed by the pieces of the rest. -/
theorem blocksOf_cons (n : Nat) (hn : 1 ≤ n) (b : Bytes) (hb : b ≠ []) :
    blocksOf n b = b.take n :: blocksOf n (b.drop n) := by
  have hl : 1 ≤ b.length := by
    cases b with
    | nil => exact absurd rfl hb
    | cons => simp
  unfold blocksOf
  have : (b.length + (n - 1)) / n = ((b.drop n).length + (n - 1)) / n + 1 := by
    rw [List.length_drop]
    by_cases h : b.length ≤ n
    · have h0 : b.length - n = 0 := by omega
      rw [h0, Nat.zero_add, Nat.div_eq_of_lt (a := n - 1) (by omega)]
      have : b.length + (n - 1) = n + (b.length - 1) := by omega
      rw [this, Nat.add_div_left _ (by omega), Nat.div_eq_of_lt (by omega)]
    · have : b.length + (n - 1) = n + (b.length - n + (n - 1)) := by omega
      rw [this, Nat.add_div_left _ (by omega)]
  rw [this, pieces]

/-- The rule of induction over a string cut into pieces. -/
theorem blocks_induction {P : Bytes → Prop} (n : Nat) (hn : 1 ≤ n) (h0 : P [])
    (hs : ∀ b, b ≠ [] → P (b.drop n) → P b) (b : Bytes) : P b := by
  induction hk : b.length using Nat.strong_induction_on generalizing b with
  | _ k ih =>
    by_cases hb : b = []
    · rw [hb]; exact h0
    · refine hs b hb (ih (b.drop n).length ?_ _ rfl)
      have : 1 ≤ b.length := List.length_pos_iff.mpr hb
      rw [List.length_drop]; omega

end Sys2Proof.Machine
end

