-- ==== Sys2Proof/Laws/State.lean ====
section
/-! SUPPORT. One lemma per field per update of State and of Scratch, true by rfl, so that no proof unfolds a record update.
The free values stand in `freeScratch`; only `scratch` and `freeCount` see them. -/

namespace Sys2Proof.Machine

/-! `State.freeAllScratch` -/

@[simp] theorem State.freeAllScratch_ctx (s : State) : s.freeAllScratch.ctx = s.ctx := rfl
@[simp] theorem State.freeAllScratch_ksg (s : State) : s.freeAllScratch.ksg = s.ksg := rfl
@[simp] theorem State.freeAllScratch_faultReg (s : State) : s.freeAllScratch.faultReg = s.faultReg := rfl
@[simp] theorem State.freeAllScratch_phase (s : State) : s.freeAllScratch.phase = s.phase := rfl
@[simp] theorem State.freeAllScratch_scratch (s : State) : s.freeAllScratch.scratch = freeScratch s.freeCount := rfl
@[simp] theorem State.freeAllScratch_pending (s : State) : s.freeAllScratch.pending = s.pending := rfl
@[simp] theorem State.freeAllScratch_responses (s : State) : s.freeAllScratch.responses = s.responses := rfl
@[simp] theorem State.freeAllScratch_bus (s : State) : s.freeAllScratch.bus = s.bus := rfl
@[simp] theorem State.freeAllScratch_freeCount (s : State) : s.freeAllScratch.freeCount = s.freeCount + 1 := rfl

/-! `State.enter` -/

@[simp] theorem State.enter_ctx (s : State) (p : Phase) : (s.enter p).ctx = s.ctx := rfl
@[simp] theorem State.enter_ksg (s : State) (p : Phase) : (s.enter p).ksg = s.ksg := rfl
@[simp] theorem State.enter_faultReg (s : State) (p : Phase) : (s.enter p).faultReg = s.faultReg := rfl
@[simp] theorem State.enter_phase (s : State) (p : Phase) : (s.enter p).phase = p := rfl
@[simp] theorem State.enter_scratch (s : State) (p : Phase) : (s.enter p).scratch = s.scratch := rfl
@[simp] theorem State.enter_pending (s : State) (p : Phase) : (s.enter p).pending = s.pending := rfl
@[simp] theorem State.enter_responses (s : State) (p : Phase) : (s.enter p).responses = s.responses := rfl
@[simp] theorem State.enter_bus (s : State) (p : Phase) : (s.enter p).bus = s.bus := rfl
@[simp] theorem State.enter_freeCount (s : State) (p : Phase) : (s.enter p).freeCount = s.freeCount := rfl

/-! `State.withScratch` -/

@[simp] theorem State.withScratch_ctx (s : State) (sc : Scratch) : (s.withScratch sc).ctx = s.ctx := rfl
@[simp] theorem State.withScratch_ksg (s : State) (sc : Scratch) : (s.withScratch sc).ksg = s.ksg := rfl
@[simp] theorem State.withScratch_faultReg (s : State) (sc : Scratch) : (s.withScratch sc).faultReg = s.faultReg := rfl
@[simp] theorem State.withScratch_phase (s : State) (sc : Scratch) : (s.withScratch sc).phase = s.phase := rfl
@[simp] theorem State.withScratch_scratch (s : State) (sc : Scratch) : (s.withScratch sc).scratch = sc := rfl
@[simp] theorem State.withScratch_pending (s : State) (sc : Scratch) : (s.withScratch sc).pending = s.pending := rfl
@[simp] theorem State.withScratch_responses (s : State) (sc : Scratch) : (s.withScratch sc).responses = s.responses := rfl
@[simp] theorem State.withScratch_bus (s : State) (sc : Scratch) : (s.withScratch sc).bus = s.bus := rfl
@[simp] theorem State.withScratch_freeCount (s : State) (sc : Scratch) : (s.withScratch sc).freeCount = s.freeCount := rfl

/-! `State.reply` -/

@[simp] theorem State.reply_ctx (s : State) (r : Response) : (s.reply r).ctx = s.ctx := rfl
@[simp] theorem State.reply_ksg (s : State) (r : Response) : (s.reply r).ksg = s.ksg := rfl
@[simp] theorem State.reply_faultReg (s : State) (r : Response) : (s.reply r).faultReg = s.faultReg := rfl
@[simp] theorem State.reply_phase (s : State) (r : Response) : (s.reply r).phase = .idle := rfl
@[simp] theorem State.reply_scratch (s : State) (r : Response) : (s.reply r).scratch = freeScratch s.freeCount := rfl
@[simp] theorem State.reply_pending (s : State) (r : Response) : (s.reply r).pending = s.pending := rfl
@[simp] theorem State.reply_responses (s : State) (r : Response) : (s.reply r).responses = s.responses ++ [r] := rfl
@[simp] theorem State.reply_bus (s : State) (r : Response) : (s.reply r).bus = s.bus := rfl
@[simp] theorem State.reply_freeCount (s : State) (r : Response) : (s.reply r).freeCount = s.freeCount + 1 := rfl

/-! `State.replyCode` -/

@[simp] theorem State.replyCode_ctx (s : State) (r : Result) : (s.replyCode r).ctx = s.ctx := rfl
@[simp] theorem State.replyCode_ksg (s : State) (r : Result) : (s.replyCode r).ksg = s.ksg := rfl
@[simp] theorem State.replyCode_faultReg (s : State) (r : Result) : (s.replyCode r).faultReg = s.faultReg := rfl
@[simp] theorem State.replyCode_phase (s : State) (r : Result) : (s.replyCode r).phase = .idle := rfl
@[simp] theorem State.replyCode_scratch (s : State) (r : Result) : (s.replyCode r).scratch = freeScratch s.freeCount := rfl
@[simp] theorem State.replyCode_pending (s : State) (r : Result) : (s.replyCode r).pending = s.pending := rfl
@[simp] theorem State.replyCode_responses (s : State) (r : Result) : (s.replyCode r).responses = s.responses ++ [{ result := r, output := none, buffer := none }] := rfl
@[simp] theorem State.replyCode_bus (s : State) (r : Result) : (s.replyCode r).bus = s.bus := rfl
@[simp] theorem State.replyCode_freeCount (s : State) (r : Result) : (s.replyCode r).freeCount = s.freeCount + 1 := rfl

/-! `State.takeCounterOverflow` -/

@[simp] theorem State.takeCounterOverflow_ctx (s : State) : s.takeCounterOverflow.ctx = s.ctx := rfl
@[simp] theorem State.takeCounterOverflow_ksg (s : State) : s.takeCounterOverflow.ksg = s.ksg := rfl
@[simp] theorem State.takeCounterOverflow_faultReg (s : State) : s.takeCounterOverflow.faultReg = .counterOverflow := rfl
@[simp] theorem State.takeCounterOverflow_phase (s : State) : s.takeCounterOverflow.phase = .halt := rfl
@[simp] theorem State.takeCounterOverflow_scratch (s : State) : s.takeCounterOverflow.scratch = freeScratch s.freeCount := rfl
@[simp] theorem State.takeCounterOverflow_pending (s : State) : s.takeCounterOverflow.pending = s.pending := rfl
@[simp] theorem State.takeCounterOverflow_responses (s : State) : s.takeCounterOverflow.responses = s.responses := rfl
@[simp] theorem State.takeCounterOverflow_bus (s : State) : s.takeCounterOverflow.bus = s.bus := rfl
@[simp] theorem State.takeCounterOverflow_freeCount (s : State) : s.takeCounterOverflow.freeCount = s.freeCount + 1 := rfl

/-! `State.takeReset` -/

@[simp] theorem State.takeReset_ctx (s : State) (rest : List Event) : (s.takeReset rest).ctx = CtxSlot.reset := rfl
@[simp] theorem State.takeReset_ksg (s : State) (rest : List Event) : (s.takeReset rest).ksg = KsgSlot.reset := rfl
@[simp] theorem State.takeReset_faultReg (s : State) (rest : List Event) : (s.takeReset rest).faultReg = .none := rfl
@[simp] theorem State.takeReset_phase (s : State) (rest : List Event) : (s.takeReset rest).phase = .idle := rfl
@[simp] theorem State.takeReset_scratch (s : State) (rest : List Event) : (s.takeReset rest).scratch = freeScratch s.freeCount := rfl
@[simp] theorem State.takeReset_pending (s : State) (rest : List Event) : (s.takeReset rest).pending = rest := rfl
@[simp] theorem State.takeReset_responses (s : State) (rest : List Event) : (s.takeReset rest).responses = s.responses := rfl
@[simp] theorem State.takeReset_bus (s : State) (rest : List Event) : (s.takeReset rest).bus = none := rfl
@[simp] theorem State.takeReset_freeCount (s : State) (rest : List Event) : (s.takeReset rest).freeCount = s.freeCount + 1 := rfl

/-! `State.deliver` -/

@[simp] theorem State.deliver_ctx (s : State) (sc : Scratch) (v : Option BusValue) : (s.deliver sc v).ctx = s.ctx := rfl
@[simp] theorem State.deliver_ksg (s : State) (sc : Scratch) (v : Option BusValue) : (s.deliver sc v).ksg = s.ksg := rfl
@[simp] theorem State.deliver_faultReg (s : State) (sc : Scratch) (v : Option BusValue) : (s.deliver sc v).faultReg = s.faultReg := rfl
@[simp] theorem State.deliver_phase (s : State) (sc : Scratch) (v : Option BusValue) : (s.deliver sc v).phase = s.phase := rfl
@[simp] theorem State.deliver_scratch (s : State) (sc : Scratch) (v : Option BusValue) : (s.deliver sc v).scratch = sc := rfl
@[simp] theorem State.deliver_pending (s : State) (sc : Scratch) (v : Option BusValue) : (s.deliver sc v).pending = s.pending := rfl
@[simp] theorem State.deliver_responses (s : State) (sc : Scratch) (v : Option BusValue) : (s.deliver sc v).responses = s.responses := rfl
@[simp] theorem State.deliver_bus (s : State) (sc : Scratch) (v : Option BusValue) : (s.deliver sc v).bus = v := rfl
@[simp] theorem State.deliver_freeCount (s : State) (sc : Scratch) (v : Option BusValue) : (s.deliver sc v).freeCount = s.freeCount := rfl

/-! Moving PHASE and writing scratch registers on the way leaves no trace once the command has ended. -/

@[simp] theorem State.enter_reply (s : State) (p : Phase) (r : Response) : (s.enter p).reply r = s.reply r := rfl
@[simp] theorem State.withScratch_reply (s : State) (sc : Scratch) (r : Response) :
    (s.withScratch sc).reply r = s.reply r := rfl
@[simp] theorem State.enter_replyCode (s : State) (p : Phase) (r : Result) :
    (s.enter p).replyCode r = s.replyCode r := rfl
@[simp] theorem State.enter_takeCounterOverflow (s : State) (p : Phase) :
    (s.enter p).takeCounterOverflow = s.takeCounterOverflow := rfl
@[simp] theorem State.withScratch_takeCounterOverflow (s : State) (sc : Scratch) :
    (s.withScratch sc).takeCounterOverflow = s.takeCounterOverflow := rfl

/-! `Scratch.qr` -/

@[simp] theorem Scratch.qr_w (sc : Scratch) (a b c d : Fin 16) : (sc.qr a b c d).w = qrAt a b c d sc.w := rfl
@[simp] theorem Scratch.qr_w0 (sc : Scratch) (a b c d : Fin 16) : (sc.qr a b c d).w0 = sc.w0 := rfl
@[simp] theorem Scratch.qr_nonce (sc : Scratch) (a b c d : Fin 16) : (sc.qr a b c d).nonce = sc.nonce := rfl
@[simp] theorem Scratch.qr_ctr (sc : Scratch) (a b c d : Fin 16) : (sc.qr a b c d).ctr = sc.ctr := rfl
@[simp] theorem Scratch.qr_ovf (sc : Scratch) (a b c d : Fin 16) : (sc.qr a b c d).ovf = sc.ovf := rfl
@[simp] theorem Scratch.qr_otk (sc : Scratch) (a b c d : Fin 16) : (sc.qr a b c d).otk = sc.otk := rfl
@[simp] theorem Scratch.qr_r (sc : Scratch) (a b c d : Fin 16) : (sc.qr a b c d).r = sc.r := rfl
@[simp] theorem Scratch.qr_s (sc : Scratch) (a b c d : Fin 16) : (sc.qr a b c d).s = sc.s := rfl
@[simp] theorem Scratch.qr_acc (sc : Scratch) (a b c d : Fin 16) : (sc.qr a b c d).acc = sc.acc := rfl
@[simp] theorem Scratch.qr_tag (sc : Scratch) (a b c d : Fin 16) : (sc.qr a b c d).tag = sc.tag := rfl
@[simp] theorem Scratch.qr_diff (sc : Scratch) (a b c d : Fin 16) : (sc.qr a b c d).diff = sc.diff := rfl

/-! `Scratch.dround` -/

@[simp] theorem Scratch.dround_w (sc : Scratch) : sc.dround.w = doubleRound sc.w := rfl
@[simp] theorem Scratch.dround_w0 (sc : Scratch) : sc.dround.w0 = sc.w0 := rfl
@[simp] theorem Scratch.dround_nonce (sc : Scratch) : sc.dround.nonce = sc.nonce := rfl
@[simp] theorem Scratch.dround_ctr (sc : Scratch) : sc.dround.ctr = sc.ctr := rfl
@[simp] theorem Scratch.dround_ovf (sc : Scratch) : sc.dround.ovf = sc.ovf := rfl
@[simp] theorem Scratch.dround_otk (sc : Scratch) : sc.dround.otk = sc.otk := rfl
@[simp] theorem Scratch.dround_r (sc : Scratch) : sc.dround.r = sc.r := rfl
@[simp] theorem Scratch.dround_s (sc : Scratch) : sc.dround.s = sc.s := rfl
@[simp] theorem Scratch.dround_acc (sc : Scratch) : sc.dround.acc = sc.acc := rfl
@[simp] theorem Scratch.dround_tag (sc : Scratch) : sc.dround.tag = sc.tag := rfl
@[simp] theorem Scratch.dround_diff (sc : Scratch) : sc.dround.diff = sc.diff := rfl

/-! `Scratch.cc20Init` -/

@[simp] theorem Scratch.cc20Init_w (sc : Scratch) (key : Key) (ctr : Word) (nonce : Nonce) : (sc.cc20Init key ctr nonce).w = initialMatrix key ctr nonce := rfl
@[simp] theorem Scratch.cc20Init_w0 (sc : Scratch) (key : Key) (ctr : Word) (nonce : Nonce) : (sc.cc20Init key ctr nonce).w0 = initialMatrix key ctr nonce := rfl
@[simp] theorem Scratch.cc20Init_nonce (sc : Scratch) (key : Key) (ctr : Word) (nonce : Nonce) : (sc.cc20Init key ctr nonce).nonce = sc.nonce := rfl
@[simp] theorem Scratch.cc20Init_ctr (sc : Scratch) (key : Key) (ctr : Word) (nonce : Nonce) : (sc.cc20Init key ctr nonce).ctr = sc.ctr := rfl
@[simp] theorem Scratch.cc20Init_ovf (sc : Scratch) (key : Key) (ctr : Word) (nonce : Nonce) : (sc.cc20Init key ctr nonce).ovf = sc.ovf := rfl
@[simp] theorem Scratch.cc20Init_otk (sc : Scratch) (key : Key) (ctr : Word) (nonce : Nonce) : (sc.cc20Init key ctr nonce).otk = sc.otk := rfl
@[simp] theorem Scratch.cc20Init_r (sc : Scratch) (key : Key) (ctr : Word) (nonce : Nonce) : (sc.cc20Init key ctr nonce).r = sc.r := rfl
@[simp] theorem Scratch.cc20Init_s (sc : Scratch) (key : Key) (ctr : Word) (nonce : Nonce) : (sc.cc20Init key ctr nonce).s = sc.s := rfl
@[simp] theorem Scratch.cc20Init_acc (sc : Scratch) (key : Key) (ctr : Word) (nonce : Nonce) : (sc.cc20Init key ctr nonce).acc = sc.acc := rfl
@[simp] theorem Scratch.cc20Init_tag (sc : Scratch) (key : Key) (ctr : Word) (nonce : Nonce) : (sc.cc20Init key ctr nonce).tag = sc.tag := rfl
@[simp] theorem Scratch.cc20Init_diff (sc : Scratch) (key : Key) (ctr : Word) (nonce : Nonce) : (sc.cc20Init key ctr nonce).diff = sc.diff := rfl

/-! `Scratch.cc20Block` -/

@[simp] theorem Scratch.cc20Block_w (sc : Scratch) (key : Key) (ctr : Word) (nonce : Nonce) : (sc.cc20Block key ctr nonce).w = doubleRounds 10 (initialMatrix key ctr nonce) := rfl
@[simp] theorem Scratch.cc20Block_w0 (sc : Scratch) (key : Key) (ctr : Word) (nonce : Nonce) : (sc.cc20Block key ctr nonce).w0 = initialMatrix key ctr nonce := rfl
@[simp] theorem Scratch.cc20Block_nonce (sc : Scratch) (key : Key) (ctr : Word) (nonce : Nonce) : (sc.cc20Block key ctr nonce).nonce = sc.nonce := rfl
@[simp] theorem Scratch.cc20Block_ctr (sc : Scratch) (key : Key) (ctr : Word) (nonce : Nonce) : (sc.cc20Block key ctr nonce).ctr = sc.ctr := rfl
@[simp] theorem Scratch.cc20Block_ovf (sc : Scratch) (key : Key) (ctr : Word) (nonce : Nonce) : (sc.cc20Block key ctr nonce).ovf = sc.ovf := rfl
@[simp] theorem Scratch.cc20Block_otk (sc : Scratch) (key : Key) (ctr : Word) (nonce : Nonce) : (sc.cc20Block key ctr nonce).otk = sc.otk := rfl
@[simp] theorem Scratch.cc20Block_r (sc : Scratch) (key : Key) (ctr : Word) (nonce : Nonce) : (sc.cc20Block key ctr nonce).r = sc.r := rfl
@[simp] theorem Scratch.cc20Block_s (sc : Scratch) (key : Key) (ctr : Word) (nonce : Nonce) : (sc.cc20Block key ctr nonce).s = sc.s := rfl
@[simp] theorem Scratch.cc20Block_acc (sc : Scratch) (key : Key) (ctr : Word) (nonce : Nonce) : (sc.cc20Block key ctr nonce).acc = sc.acc := rfl
@[simp] theorem Scratch.cc20Block_tag (sc : Scratch) (key : Key) (ctr : Word) (nonce : Nonce) : (sc.cc20Block key ctr nonce).tag = sc.tag := rfl
@[simp] theorem Scratch.cc20Block_diff (sc : Scratch) (key : Key) (ctr : Word) (nonce : Nonce) : (sc.cc20Block key ctr nonce).diff = sc.diff := rfl

/-! `Scratch.clamp` -/

@[simp] theorem Scratch.clamp_w (sc : Scratch) (otk : Otk) : (sc.clamp otk).w = sc.w := rfl
@[simp] theorem Scratch.clamp_w0 (sc : Scratch) (otk : Otk) : (sc.clamp otk).w0 = sc.w0 := rfl
@[simp] theorem Scratch.clamp_nonce (sc : Scratch) (otk : Otk) : (sc.clamp otk).nonce = sc.nonce := rfl
@[simp] theorem Scratch.clamp_ctr (sc : Scratch) (otk : Otk) : (sc.clamp otk).ctr = sc.ctr := rfl
@[simp] theorem Scratch.clamp_ovf (sc : Scratch) (otk : Otk) : (sc.clamp otk).ovf = sc.ovf := rfl
@[simp] theorem Scratch.clamp_otk (sc : Scratch) (otk : Otk) : (sc.clamp otk).otk = sc.otk := rfl
@[simp] theorem Scratch.clamp_r (sc : Scratch) (otk : Otk) : (sc.clamp otk).r = clampedR otk := rfl
@[simp] theorem Scratch.clamp_s (sc : Scratch) (otk : Otk) : (sc.clamp otk).s = secondHalf otk := rfl
@[simp] theorem Scratch.clamp_acc (sc : Scratch) (otk : Otk) : (sc.clamp otk).acc = 0 := rfl
@[simp] theorem Scratch.clamp_tag (sc : Scratch) (otk : Otk) : (sc.clamp otk).tag = sc.tag := rfl
@[simp] theorem Scratch.clamp_diff (sc : Scratch) (otk : Otk) : (sc.clamp otk).diff = sc.diff := rfl

/-! `Scratch.block` -/

@[simp] theorem Scratch.block_w (sc : Scratch) (m : Bytes) : (sc.block m).w = sc.w := rfl
@[simp] theorem Scratch.block_w0 (sc : Scratch) (m : Bytes) : (sc.block m).w0 = sc.w0 := rfl
@[simp] theorem Scratch.block_nonce (sc : Scratch) (m : Bytes) : (sc.block m).nonce = sc.nonce := rfl
@[simp] theorem Scratch.block_ctr (sc : Scratch) (m : Bytes) : (sc.block m).ctr = sc.ctr := rfl
@[simp] theorem Scratch.block_ovf (sc : Scratch) (m : Bytes) : (sc.block m).ovf = sc.ovf := rfl
@[simp] theorem Scratch.block_otk (sc : Scratch) (m : Bytes) : (sc.block m).otk = sc.otk := rfl
@[simp] theorem Scratch.block_r (sc : Scratch) (m : Bytes) : (sc.block m).r = sc.r := rfl
@[simp] theorem Scratch.block_s (sc : Scratch) (m : Bytes) : (sc.block m).s = sc.s := rfl
@[simp] theorem Scratch.block_acc (sc : Scratch) (m : Bytes) : (sc.block m).acc = absorb sc.r sc.acc m := rfl
@[simp] theorem Scratch.block_tag (sc : Scratch) (m : Bytes) : (sc.block m).tag = sc.tag := rfl
@[simp] theorem Scratch.block_diff (sc : Scratch) (m : Bytes) : (sc.block m).diff = sc.diff := rfl

/-! `Scratch.deriveOtk` -/

@[simp] theorem Scratch.deriveOtk_w (sc : Scratch) (key : Key) (nonce : Nonce) : (sc.deriveOtk key nonce).w = doubleRounds 10 (initialMatrix key 0 nonce) := rfl
@[simp] theorem Scratch.deriveOtk_w0 (sc : Scratch) (key : Key) (nonce : Nonce) : (sc.deriveOtk key nonce).w0 = initialMatrix key 0 nonce := rfl
@[simp] theorem Scratch.deriveOtk_nonce (sc : Scratch) (key : Key) (nonce : Nonce) : (sc.deriveOtk key nonce).nonce = sc.nonce := rfl
@[simp] theorem Scratch.deriveOtk_ctr (sc : Scratch) (key : Key) (nonce : Nonce) : (sc.deriveOtk key nonce).ctr = 1 := rfl
@[simp] theorem Scratch.deriveOtk_ovf (sc : Scratch) (key : Key) (nonce : Nonce) : (sc.deriveOtk key nonce).ovf = false := rfl
@[simp] theorem Scratch.deriveOtk_otk (sc : Scratch) (key : Key) (nonce : Nonce) : (sc.deriveOtk key nonce).otk = Machine.deriveOtk key nonce := rfl
@[simp] theorem Scratch.deriveOtk_r (sc : Scratch) (key : Key) (nonce : Nonce) : (sc.deriveOtk key nonce).r = sc.r := rfl
@[simp] theorem Scratch.deriveOtk_s (sc : Scratch) (key : Key) (nonce : Nonce) : (sc.deriveOtk key nonce).s = sc.s := rfl
@[simp] theorem Scratch.deriveOtk_acc (sc : Scratch) (key : Key) (nonce : Nonce) : (sc.deriveOtk key nonce).acc = sc.acc := rfl
@[simp] theorem Scratch.deriveOtk_tag (sc : Scratch) (key : Key) (nonce : Nonce) : (sc.deriveOtk key nonce).tag = sc.tag := rfl
@[simp] theorem Scratch.deriveOtk_diff (sc : Scratch) (key : Key) (nonce : Nonce) : (sc.deriveOtk key nonce).diff = sc.diff := rfl

/-! `Scratch.compareTags` -/

@[simp] theorem Scratch.compareTags_w (sc : Scratch) (a b : Tag) : (sc.compareTags a b).w = sc.w := rfl
@[simp] theorem Scratch.compareTags_w0 (sc : Scratch) (a b : Tag) : (sc.compareTags a b).w0 = sc.w0 := rfl
@[simp] theorem Scratch.compareTags_nonce (sc : Scratch) (a b : Tag) : (sc.compareTags a b).nonce = sc.nonce := rfl
@[simp] theorem Scratch.compareTags_ctr (sc : Scratch) (a b : Tag) : (sc.compareTags a b).ctr = sc.ctr := rfl
@[simp] theorem Scratch.compareTags_ovf (sc : Scratch) (a b : Tag) : (sc.compareTags a b).ovf = sc.ovf := rfl
@[simp] theorem Scratch.compareTags_otk (sc : Scratch) (a b : Tag) : (sc.compareTags a b).otk = sc.otk := rfl
@[simp] theorem Scratch.compareTags_r (sc : Scratch) (a b : Tag) : (sc.compareTags a b).r = sc.r := rfl
@[simp] theorem Scratch.compareTags_s (sc : Scratch) (a b : Tag) : (sc.compareTags a b).s = sc.s := rfl
@[simp] theorem Scratch.compareTags_acc (sc : Scratch) (a b : Tag) : (sc.compareTags a b).acc = sc.acc := rfl
@[simp] theorem Scratch.compareTags_tag (sc : Scratch) (a b : Tag) : (sc.compareTags a b).tag = sc.tag := rfl
@[simp] theorem Scratch.compareTags_diff (sc : Scratch) (a b : Tag) : (sc.compareTags a b).diff = tagDiff a b := rfl

end Sys2Proof.Machine
end

