-- ==== Sys2Proof/Laws/Ops.lean ====
section
/-! SUPPORT. What each shared operation of Machine/Ops.lean can do, once: when an operation begins and when it does not. -/

namespace Sys2Proof.Machine

open Sys2Proof.Safety

theorem perform_next {i : Instr} {s t : State} {k : Out} :
    perform i s k = .next t ↔ Running s ∧ i.wellFormed = true ∧ k = .next t := by
  unfold perform
  split <;> rename_i h
  · split <;> rename_i hw
    · simp [hw, Running, h]
    · simp [hw]
  · simp [Running, h]

@[simp] theorem perform_of_running {i : Instr} {s : State} (h : Running s) (w : i.wellFormed = true) (k : Out) :
    perform i s k = k := by simp [perform, h, w]

theorem perform_of_halted {i : Instr} {s : State} (h : ¬ Running s) (k : Out) : perform i s k = .fault .halted := by
  simp [perform, h]

theorem perform_outside_domain {i : Instr} {s : State} (h : Running s) (w : i.wellFormed = false) (k : Out) :
    perform i s k = .refused .operandOutsideDomain := by simp [perform, h, w]

theorem needContext_next {s t : State} {k : Out} :
    needContext s k = .next t ↔ s.ctx.valid = true ∧ k = .next t := by
  unfold needContext
  split <;> simp_all

theorem needContext_of_valid {s : State} (h : s.ctx.valid = true) (k : Out) : needContext s k = k := by
  simp [needContext, h]

theorem needContext_of_invalid {s : State} (h : s.ctx.valid = false) (k : Out) :
    needContext s k = .refused .contextNotConstructed := by simp [needContext, h]

theorem needGenerator_next {s t : State} {k : Out} :
    needGenerator s k = .next t ↔ s.ksg.valid = true ∧ k = .next t := by
  unfold needGenerator
  split <;> simp_all

theorem needGenerator_of_valid {s : State} (h : s.ksg.valid = true) (k : Out) : needGenerator s k = k := by
  simp [needGenerator, h]

theorem needGenerator_of_invalid {s : State} (h : s.ksg.valid = false) (k : Out) :
    needGenerator s k = .refused .generatorNotConstructed := by simp [needGenerator, h]

/-- A constructor's length checks pass exactly for the byte strings of a key and of a nonce. -/
@[simp] theorem checkLengths_toList (key : Key) (nonce : Nonce) (s : State) (k : Key → Nonce → Out) :
    checkLengths key.toList nonce.toList s k = k key nonce := by simp [checkLengths]

theorem checkLengths_bad_key {key nonce : Bytes} (h : key.length ≠ 32) (s : State) (k : Key → Nonce → Out) :
    checkLengths key nonce s k = .next (s.replyCode .invalidKeyLength) := by
  simp [checkLengths, vec?_eq_none.mpr h]

theorem checkLengths_bad_nonce {nonce : Bytes} (key : Key) (h : nonce.length ≠ 12) (s : State) (k : Key → Nonce → Out) :
    checkLengths key.toList nonce s k = .next (s.replyCode .invalidNonceLength) := by
  simp [checkLengths, vec?_eq_none.mpr h]

/-- Everything a constructor's length checks can do (60_exceptions R221, R222, R228). -/
theorem checkLengths_cases (key nonce : Bytes) (s : State) (k : Key → Nonce → Out) :
    (key.length ≠ 32 ∧ checkLengths key nonce s k = .next (s.replyCode .invalidKeyLength)) ∨
    (key.length = 32 ∧ nonce.length ≠ 12 ∧ checkLengths key nonce s k = .next (s.replyCode .invalidNonceLength)) ∨
    (∃ (ky : Key) (n : Nonce), key = ky.toList ∧ nonce = n.toList ∧ checkLengths key nonce s k = k ky n) := by
  by_cases hk : key.length = 32
  · obtain ⟨ky, -, rfl⟩ := exists_vec?_of_length hk
    by_cases hn : nonce.length = 12
    · obtain ⟨n, -, rfl⟩ := exists_vec?_of_length hn
      exact .inr (.inr ⟨ky, n, rfl, rfl, by simp⟩)
    · exact .inr (.inl ⟨hk, hn, checkLengths_bad_nonce ky hn s k⟩)
  · exact .inl ⟨hk, checkLengths_bad_key hk s k⟩

end Sys2Proof.Machine
end

