-- ==== Sys2Proof/Laws/Keystream.lean ====
section
/-! SUPPORT. What the masking loop of KS_XOR does, once: the closed form of 41_keystream_generator R150, the counter it leaves
and when it faults; and what SEAL and OPEN need of it. -/

namespace Sys2Proof.Machine

open Sys2Proof.Safety

/-- The scratch counter and its overflow bit as one 33-bit counter (10_state R22). -/
def Scratch.position (sc : Scratch) : Nat := if sc.ovf then 2 ^ 32 else sc.ctr.toNat

/-- The overflow bit is set only at the last counter. -/
def Scratch.CounterSound (sc : Scratch) : Prop := sc.ovf = true → sc.ctr = lastCounter

theorem position_le (sc : Scratch) : sc.position ≤ 2 ^ 32 := by
  unfold Scratch.position
  have := sc.ctr.isLt
  split <;> omega

theorem keystreamMask_length (key : Key) (nonce : Nonce) (c : Nat) (data : Bytes) :
    (keystreamMask key nonce c data).length = data.length := by simp [keystreamMask]

@[simp] theorem keystreamMask_nil (key : Key) (nonce : Nonce) (c : Nat) : keystreamMask key nonce c [] = [] := rfl

/-- The first 64 bytes are masked with one block and the rest from the next counter on. -/
theorem keystreamMask_split (key : Key) (nonce : Nonce) (c : Nat) (data : Bytes) :
    keystreamMask key nonce c data =
      xorBytes (data.take 64) (cc20Block key (BitVec.ofNat 32 c) nonce).toList ++
        keystreamMask key nonce (c + 1) (data.drop 64) := by
  apply List.ext_getElem
  · simp [keystreamMask_length, xorBytes_length]; omega
  · intro p h1 h2
    by_cases hp : p < 64
    · have hd : p < data.length := by simpa [keystreamMask_length] using h1
      have e0 : p / 64 = 0 := by omega
      have e1 : p % 64 = p := by omega
      rw [List.getElem_append_left (by simp [xorBytes_length]; omega)]
      simp [keystreamMask, xorBytes, e0, e1]
    · have e0 : p / 64 = (p - 64) / 64 + 1 := by omega
      have e1 : p % 64 = (p - 64) % 64 := by omega
      have hl : (xorBytes (data.take 64) (cc20Block key (BitVec.ofNat 32 c) nonce).toList).length = 64 := by
        have hd : p < data.length := by simpa [keystreamMask_length] using h1
        simp [xorBytes_length]; omega
      rw [List.getElem_append_right (by omega)]
      have e2 : 64 + (p - 64) = p := by omega
      have e3 : c + 1 + (p - 64) / 64 = c + p / 64 := by omega
      simp only [keystreamMask, List.getElem_mapIdx, hl, List.getElem_drop, e2, e3, ← e1]

/-- Masking twice gives the data back. -/
theorem keystreamMask_involution (key : Key) (nonce : Nonce) (c : Nat) (data : Bytes) :
    keystreamMask key nonce c (keystreamMask key nonce c data) = data := by
  apply List.ext_getElem
  · simp [keystreamMask_length]
  · intro p h1 h2
    simp [keystreamMask]

theorem blocksNeeded_pos {n : Nat} (h : 1 ≤ n) : blocksNeeded n = blocksNeeded (n - 64) + 1 := by
  unfold blocksNeeded; omega

/-- Everything the masking loop can do: from a sound scratch counter it either masks, and has counted the blocks it made, or
faults, exactly when the blocks go past the last counter. -/
theorem maskPieces_spec (key : Key) (nonce : Nonce) (data : Bytes) (sc : Scratch) (hs : sc.CounterSound) :
    if sc.position + blocksNeeded data.length ≤ 2 ^ 32 then
      ∃ sc', maskPieces key nonce (blocksOf 64 data) sc = some (keystreamMask key nonce sc.position data, sc') ∧
        sc'.position = sc.position + blocksNeeded data.length ∧ sc'.CounterSound ∧
        sc' = { sc with w := sc'.w, w0 := sc'.w0, ctr := sc'.ctr, ovf := sc'.ovf }
    else maskPieces key nonce (blocksOf 64 data) sc = none := by
  induction data using blocks_induction 64 (by decide) generalizing sc with
  | h0 =>
    have := position_le sc
    rw [if_pos (by simpa [blocksNeeded] using this), blocksOf_nil 64 (by decide)]
    exact ⟨sc, rfl, rfl, hs, rfl⟩
  | hs data hd ih =>
    have hl : 1 ≤ data.length := List.length_pos_iff.mpr hd
    have hb := blocksNeeded_pos hl
    rw [blocksOf_cons 64 (by decide) data hd]
    unfold maskPieces
    by_cases hv : sc.ovf
    · rw [if_pos hv, if_neg]
      simp [Scratch.position, hv, hb]
    · rw [if_neg hv]
      have hpos : sc.position = sc.ctr.toNat := by simp [Scratch.position, hv]
      have hlt := sc.ctr.isLt
      let sc2 : Scratch :=
        { sc.cc20Block key sc.ctr nonce with ctr := advanceCtr sc.ctr, ovf := advanceOvf sc.ctr sc.ovf }
      have hs2 : sc2.CounterSound := by
        show advanceOvf sc.ctr sc.ovf = true → advanceCtr sc.ctr = lastCounter
        unfold advanceOvf advanceCtr
        split <;> simp_all
      have hp2 : sc2.position = sc.position + 1 := by
        rw [hpos]
        show (if advanceOvf sc.ctr sc.ovf then 2 ^ 32 else (advanceCtr sc.ctr).toNat) = sc.ctr.toNat + 1
        unfold advanceOvf advanceCtr
        by_cases hlast : sc.ctr = lastCounter
        · simp [hlast, lastCounter]
        · have : sc.ctr.toNat ≠ 2 ^ 32 - 1 := by
            intro e
            exact hlast (BitVec.eq_of_toNat_eq (by simpa [lastCounter] using e))
          simp only [hlast, if_false, hv, Bool.false_eq_true, if_false, BitVec.toNat_add]
          have h1 : (1 : Word).toNat = 1 := rfl
          rw [h1, Nat.mod_eq_of_lt (by omega)]
      have hbd : blocksNeeded data.length = blocksNeeded (data.drop 64).length + 1 := by
        rw [List.length_drop]; exact hb
      have := ih sc2 hs2
      by_cases hle : sc.position + blocksNeeded data.length ≤ 2 ^ 32
      · rw [if_pos hle]
        rw [if_pos (by omega)] at this
        obtain ⟨sc', h1, h2, h3, h4⟩ := this
        refine ⟨sc', ?_, by omega, h3, ?_⟩
        · show (maskPieces key nonce (blocksOf 64 (data.drop 64)) sc2).map _ = _
          rw [h1, hp2]
          simp only [Option.map_some]
          rw [keystreamMask_split key nonce sc.position data, hpos, BitVec.ofNat_toNat, BitVec.setWidth_eq]
        · exact h4
      · rw [if_neg hle]
        rw [if_neg (by omega)] at this
        show (maskPieces key nonce (blocksOf 64 (data.drop 64)) sc2).map _ = _
        rw [this]; rfl

/-- Everything KS_XOR can do on the scratch registers. -/
theorem ksXor_spec (sc : Scratch) (key : Key) (nonce : Nonce) (ctr0 : Word) (data : Bytes) :
    if ctr0.toNat + blocksNeeded data.length ≤ 2 ^ 32 then
      ∃ sc', sc.ksXor key nonce ctr0 data = some (keystreamMask key nonce ctr0.toNat data, sc') ∧
        sc'.position = ctr0.toNat + blocksNeeded data.length ∧ sc'.CounterSound ∧
        sc' = { sc with w := sc'.w, w0 := sc'.w0, ctr := sc'.ctr, ovf := sc'.ovf }
    else sc.ksXor key nonce ctr0 data = none := by
  have := maskPieces_spec key nonce data { sc with ctr := ctr0, ovf := false } (by intro h; cases h)
  have hp : Scratch.position { sc with ctr := ctr0, ovf := false } = ctr0.toNat := rfl
  rw [hp] at this
  exact this

theorem ksXor_some {sc : Scratch} {key : Key} {nonce : Nonce} {ctr0 : Word} {data : Bytes}
    (h : ctr0.toNat + blocksNeeded data.length ≤ 2 ^ 32) :
    ∃ sc', sc.ksXor key nonce ctr0 data = some (keystreamMask key nonce ctr0.toNat data, sc') ∧
      sc'.position = ctr0.toNat + blocksNeeded data.length ∧ sc'.CounterSound ∧
      sc' = { sc with w := sc'.w, w0 := sc'.w0, ctr := sc'.ctr, ovf := sc'.ovf } := by
  have := ksXor_spec sc key nonce ctr0 data
  rwa [if_pos h] at this

theorem ksXor_none {sc : Scratch} {key : Key} {nonce : Nonce} {ctr0 : Word} {data : Bytes}
    (h : 2 ^ 32 < ctr0.toNat + blocksNeeded data.length) : sc.ksXor key nonce ctr0 data = none := by
  have := ksXor_spec sc key nonce ctr0 data
  rwa [if_neg (by omega)] at this

/-- A message within MAX_MSG never faults in the masking of SEAL and OPEN, which starts at counter 1 (43_aead R199). -/
theorem ksXor_within_maxMsg {sc : Scratch} {key : Key} {nonce : Nonce} {data : Bytes}
    (h : data.length ≤ Config.maxMsg) :
    ∃ sc', sc.ksXor key nonce 1 data = some (keystreamMask key nonce 1 data, sc') ∧ sc'.nonce = sc.nonce := by
  have hb : (1 : Word).toNat + blocksNeeded data.length ≤ 2 ^ 32 := by
    have e : (1 : Word).toNat = 1 := rfl
    unfold Config.maxMsg at h
    unfold blocksNeeded
    omega
  obtain ⟨sc', h1, -, -, h4⟩ := ksXor_some (sc := sc) (key := key) (nonce := nonce) hb
  exact ⟨sc', h1, by rw [h4]⟩

end Sys2Proof.Machine
end

