-- ==== Sys2Proof/Laws/Poly1305.lean ====
section
/-! SUPPORT. What the Poly1305 registers hold after each operation: the canonical residue, and the polynomial of
42_poly1305 R166. -/

namespace Sys2Proof.Machine

/-- One block: the exact arithmetic of 42_poly1305 R162, with nothing lost in the 130-bit register. -/
theorem absorb_toNat (r : BitVec 128) (acc : BitVec 130) (m : Bytes) :
    (absorb r acc m).toNat = (acc.toNat + blockValue m) * r.toNat % polyPrime := by
  have : (acc.toNat + blockValue m) * r.toNat % polyPrime < polyPrime := Nat.mod_lt _ (by decide)
  simp only [absorb, BitVec.toNat_ofNat]
  exact Nat.mod_eq_of_lt (Nat.lt_trans this (by decide))

theorem absorb_lt (r : BitVec 128) (acc : BitVec 130) (m : Bytes) : (absorb r acc m).toNat < polyPrime := by
  rw [absorb_toNat]; exact Nat.mod_lt _ (by decide)

/-- The accumulator after some blocks is the polynomial's value (42_poly1305 R166). -/
theorem absorb_foldl (r : BitVec 128) (blocks : List Bytes) (acc : BitVec 130) (h : acc.toNat < polyPrime) :
    (blocks.foldl (absorb r) acc).toNat =
      (acc.toNat * r.toNat ^ blocks.length + polySum r.toNat (blocks.map blockValue)) % polyPrime := by
  induction blocks generalizing acc with
  | nil => simp [polySum, Nat.mod_eq_of_lt h]
  | cons m ms ih =>
    rw [List.foldl_cons, ih _ (absorb_lt _ _ _), absorb_toNat]
    simp only [List.map_cons, polySum, List.length_cons, List.length_map]
    have e : acc.toNat * r.toNat ^ (ms.length + 1) + (blockValue m * r.toNat ^ (ms.length + 1) +
        polySum r.toNat (ms.map blockValue)) =
        (acc.toNat + blockValue m) * r.toNat * r.toNat ^ ms.length + polySum r.toNat (ms.map blockValue) := by
      ring
    rw [e]
    conv_rhs => rw [Nat.add_mod, Nat.mul_mod]
    conv_lhs => rw [Nat.add_mod, Nat.mul_mod, Nat.mod_mod]

theorem absorbAll_toNat (r : BitVec 128) (blocks : List Bytes) :
    (absorbAll r blocks).toNat = polySum r.toNat (blocks.map blockValue) % polyPrime := by
  have := absorb_foldl r blocks 0 (by decide)
  simpa [absorbAll] using this

/-- P.acc holds a canonical residue after any number of blocks (10_state R27). -/
theorem absorbAll_lt (r : BitVec 128) (blocks : List Bytes) : (absorbAll r blocks).toNat < polyPrime := by
  rw [absorbAll_toNat]; exact Nat.mod_lt _ (by decide)

/-- The blocks of a message, one after another, write P.acc only. -/
theorem foldl_block (blocks : List Bytes) (sc : Scratch) :
    blocks.foldl Scratch.block sc = { sc with acc := blocks.foldl (absorb sc.r) sc.acc } := by
  induction blocks generalizing sc with
  | nil => rfl
  | cons m ms ih => rw [List.foldl_cons, ih]; rfl

/-- What P1305_MAC leaves in the registers. -/
theorem Scratch.mac_eq (sc : Scratch) (otk : Otk) (msg : Bytes) :
    sc.mac otk msg = { sc with r := clampedR otk, s := secondHalf otk
                               acc := absorbAll (clampedR otk) (blocksOf 16 msg) } := by
  simp only [Scratch.mac, foldl_block, Scratch.clamp_r, Scratch.clamp_acc]
  rfl

theorem leNat_polyTag (acc : BitVec 130) (s : BitVec 128) :
    leNat (polyTag acc s).toList = (acc.toNat + s.toNat) % 2 ^ 128 := by
  rw [polyTag, toLEVec, toList_vecOf, leNat_toLE]
  have : (256 : Nat) ^ 16 = 2 ^ 128 := by decide
  rw [this, Nat.mod_mod]

theorem secondHalf_toNat (otk : Otk) : (secondHalf otk).toNat = leNat (otk.toList.drop 16) := by
  have hl := leNat_lt (otk.toList.drop 16)
  have e : (otk.toList.drop 16).length = 16 := by simp
  rw [e] at hl
  rw [secondHalf, memRead, List.take_of_length_le (by omega), BitVec.toNat_ofNat, Nat.mod_eq_of_lt]
  have : (256 : Nat) ^ 16 = 2 ^ 128 := by decide
  omega

/-- The tag of an accumulator of zero is the second half of the one-time key (42_poly1305 R167). -/
theorem polyTag_zero (otk : Otk) : (polyTag 0 (secondHalf otk)).toList = otk.toList.drop 16 := by
  apply leNat_injective
  · simp
  · rw [leNat_polyTag, ← secondHalf_toNat]
    have := (secondHalf otk).isLt
    simp [Nat.mod_eq_of_lt this]

/-- With r = 0 the accumulator stays 0 (42_poly1305 R167). -/
theorem absorbAll_zero (blocks : List Bytes) : absorbAll 0 blocks = 0 := by
  apply BitVec.eq_of_toNat_eq
  rw [absorbAll_toNat]
  have : ∀ l : List Nat, polySum 0 l = 0 := by
    intro l
    induction l with
    | nil => rfl
    | cons n ns ih => simp [polySum, ih]
  simp [this]

end Sys2Proof.Machine
end

