-- ==== Sys2Proof/Laws/Aead.lean ====
section
/-! SUPPORT. The composer's functions: what AEAD_TAG leaves in the registers, what TAG_EQ decides, how OPEN's input is split,
and the two forms of OPEN's buffer. -/

namespace Sys2Proof.Machine

theorem deriveOtk_toList (key : Key) (nonce : Nonce) :
    (deriveOtk key nonce).toList = (cc20Block key 0 nonce).toList.take 32 := by
  rw [deriveOtk, firstBytes, toList_vecOf, memRead_zero]

/-- What AEAD_TAG leaves in the registers (43_aead R194): in S.tag, the tag function of its operands. -/
theorem Scratch.recordTag_eq (sc : Scratch) (key : Key) (nonce : Nonce) (aad ct : Bytes) :
    sc.recordTag key nonce aad ct =
      { (sc.deriveOtk key nonce).mac (Machine.deriveOtk key nonce) (macData aad ct) with
        tag := Machine.recordTag key nonce aad ct } := by
  simp only [Scratch.recordTag, Scratch.mac_eq, Scratch.deriveOtk_otk, Machine.recordTag, poly1305Mac]

@[simp] theorem Scratch.recordTag_tag (sc : Scratch) (key : Key) (nonce : Nonce) (aad ct : Bytes) :
    (sc.recordTag key nonce aad ct).tag = Machine.recordTag key nonce aad ct := by rw [Scratch.recordTag_eq]

@[simp] theorem Scratch.recordTag_nonce (sc : Scratch) (key : Key) (nonce : Nonce) (aad ct : Bytes) :
    (sc.recordTag key nonce aad ct).nonce = sc.nonce := by
  rw [Scratch.recordTag_eq, Scratch.mac_eq]; rfl

/-! ### TAG_EQ -/

theorem foldl_or_eq_zero (l : Bytes) (d : Byte) :
    l.foldl (fun diff x => diff ||| x) d = 0 ↔ d = 0 ∧ ∀ x ∈ l, x = 0 := by
  induction l generalizing d with
  | nil => simp
  | cons x xs ih =>
    rw [List.foldl_cons, ih]
    simp only [List.mem_cons, forall_eq_or_imp]
    have : d ||| x = 0 ↔ d = 0 ∧ x = 0 := BitVec.or_eq_zero_iff
    rw [this, and_assoc]

/-- The accumulated difference is zero exactly for equal tags (43_aead R196). -/
theorem tagDiff_eq_zero {a b : Tag} : tagDiff a b = 0 ↔ a = b := by
  unfold tagDiff
  rw [foldl_or_eq_zero]
  constructor
  · rintro ⟨-, h⟩
    apply Vector.ext
    intro i hi
    have hm := h (a[i] ^^^ b[i]) (by
      have hl : i < (xorBytes a.toList b.toList).length := by simp [xorBytes]; exact hi
      have : (xorBytes a.toList b.toList)[i] = a[i] ^^^ b[i] := by simp [xorBytes]
      exact this ▸ List.getElem_mem hl)
    exact BitVec.xor_eq_zero_iff.mp hm
  · rintro rfl
    refine ⟨rfl, fun x hx => ?_⟩
    obtain ⟨i, hi, rfl⟩ := List.getElem_of_mem hx
    simp only [xorBytes, List.getElem_zipWith, BitVec.xor_self]
    rfl

/-! ### OPEN's input and its buffer -/

theorem ciphertextOf_eq (ctt : Bytes) : ciphertextOf ctt = ctt.take (ctt.length - 16) := memRead_zero _ _

theorem receivedTag_toList (ctt : Bytes) (h : 16 ≤ ctt.length) :
    (receivedTag ctt h).toList = ctt.drop (ctt.length - 16) := by
  rw [receivedTag, toList_vecOf, memRead, List.take_of_length_le]
  simp; omega

theorem ciphertextOf_append (ct : Bytes) (tag : Tag) : ciphertextOf (ct ++ tag.toList) = ct := by
  simp [ciphertextOf_eq]

theorem receivedTag_append (ct : Bytes) (tag : Tag) (h : 16 ≤ (ct ++ tag.toList).length) :
    receivedTag (ct ++ tag.toList) h = tag := by
  apply Vector.toList_inj.mp
  rw [receivedTag_toList]
  simp

theorem ciphertextOf_length (ctt : Bytes) : (ciphertextOf ctt).length = ctt.length - 16 := by
  simp [ciphertextOf_eq]

/-! ### AEAD_MACDATA -/

theorem macData_length (aad ct : Bytes) :
    (macData aad ct).length = (aad.length + padLen aad.length) + (ct.length + padLen ct.length) + 16 := by
  simp [macData, toLE_length]; omega

/-- The authenticated byte string is a multiple of 16 bytes (42_poly1305 R169). -/
theorem macData_aligned (aad ct : Bytes) : (macData aad ct).length % 16 = 0 := by
  have h1 := padLen_aligns aad.length
  have h2 := padLen_aligns ct.length
  rw [macData_length]; omega

end Sys2Proof.Machine
end

