-- ==== Sys2Proof/Laws/ChaCha.lean ====
section
/-! SUPPORT. The ChaCha20 core: what QR reads and writes, its steps on integers, and the bytes of a block. -/

namespace Sys2Proof.Machine

theorem rotl32_toNat (v : Word) (n : Nat) : (rotl32 v n).toNat = rotlNat v.toNat n := by
  simp [rotl32, rotlNat, BitVec.toNat_or, BitVec.toNat_shiftLeft, BitVec.toNat_ushiftRight]

theorem add_toNat (a b : Word) : (a + b).toNat = addMod32 a.toNat b.toNat := by simp [addMod32, BitVec.toNat_add]

/-- The quarter-round's words are those of the twelve steps on integers (40_chacha20_core R120). -/
theorem quarterRound_toNat (q : Quad) :
    ((quarterRound q).a.toNat, (quarterRound q).b.toNat, (quarterRound q).c.toNat, (quarterRound q).d.toNat) =
      quarterSteps q.a.toNat q.b.toNat q.c.toNat q.d.toNat := by
  simp only [quarterRound, quarterSteps, add_toNat, rotl32_toNat, BitVec.toNat_xor]

/-- QR writes the four words it read and no other (40_chacha20_core R120). -/
theorem qrAt_get (a b c d : Fin 16) (w : Matrix) (h : indicesDistinct a b c d = true) (i : Fin 16) :
    (qrAt a b c d w)[i] =
      if i = a then (quarterRound { a := w[a], b := w[b], c := w[c], d := w[d] }).a
      else if i = b then (quarterRound { a := w[a], b := w[b], c := w[c], d := w[d] }).b
      else if i = c then (quarterRound { a := w[a], b := w[b], c := w[c], d := w[d] }).c
      else if i = d then (quarterRound { a := w[a], b := w[b], c := w[c], d := w[d] }).d
      else w[i] := by
  simp only [indicesDistinct, decide_eq_true_eq] at h
  obtain ⟨hab, hac, had, hbc, hbd, hcd⟩ := h
  unfold qrAt
  generalize quarterRound { a := w[a], b := w[b], c := w[c], d := w[d] } = q
  simp only [Fin.getElem_fin, Vector.getElem_set, Fin.val_inj]
  by_cases e1 : i = a
  · subst e1; simp [Ne.symm hab, Ne.symm hac, Ne.symm had]
  · by_cases e2 : i = b
    · subst e2; simp [Ne.symm hbc, Ne.symm hbd, e1]
    · by_cases e3 : i = c
      · subst e3; simp [Ne.symm hcd, e1, e2]
      · by_cases e4 : i = d
        · subst e4; simp [e1, e2, e3]
        · simp [e1, e2, e3, e4, Ne.symm e1, Ne.symm e2, Ne.symm e3, Ne.symm e4]

theorem serialWords_getElem (l : List Word) (i j : Nat) (hi : i < l.length) (hj : j < 4) :
    (serialWords l)[4 * i + j]'(by rw [serialWords_length]; omega) = BitVec.ofNat 8 (l[i].toNat / 256 ^ j) := by
  induction l generalizing i with
  | nil => simp at hi
  | cons v vs ih =>
    simp only [serialWords]
    cases i with
    | zero =>
      rw [List.getElem_append_left (by rw [toLE_length]; omega)]
      simp only [Nat.mul_zero, Nat.zero_add, List.getElem_cons_zero]
      exact toLE_getElem _ _ _ hj
    | succ i =>
      rw [List.getElem_append_right (by rw [toLE_length]; omega)]
      simp only [toLE_length, List.getElem_cons_succ]
      have e : 4 * (i + 1) + j - 4 = 4 * i + j := by omega
      simp only [e]
      exact ih i (by simpa using hi)

/-- Byte `4i + j` of a serialised matrix (30_encoding R84). -/
theorem serializeMatrix_getElem (w : Matrix) (i j : Nat) (hi : i < 16) (hj : j < 4) :
    (serializeMatrix w)[4 * i + j] = BitVec.ofNat 8 (w[i].toNat / 256 ^ j) := by
  rw [serializeMatrix, getElem_vecOf, serialWords_getElem _ _ _ (by simpa using hi) hj]
  simp

theorem feedForward_getElem (w w0 : Matrix) (i : Nat) (hi : i < 16) : (feedForward w w0)[i] = w[i] + w0[i] := by
  rw [feedForward, getElem_vecOf]
  simp

end Sys2Proof.Machine
end

