-- ==== Sys2Proof/Laws/Decode.lean ====
section
/-! SUPPORT. Laws of the decoder and the encoder: an operation's packet has its port's kind of code and the operands its row
names, and shapes read from operands are the encoder's. -/

namespace Sys2Proof

open Sys2Proof.Machine

/-- The shape reader of a port. -/
def operationOf : Port → Byte → List Operand → Option Instr
  | .host => commandOf
  | .sequencer => microOperationOf

/-- The codes of a port. -/
def isCodeOf : Port → Byte → Bool
  | .host => isCommandCode
  | .sequencer => isLabel

theorem encode_code (i : Instr) : isCodeOf i.port (encode i).code = true := by
  cases i <;> rfl

/-- The label readers that take fixed-length operands, unfolded once. -/
theorem microOperationOf_cc20Init (k n : Bytes) (c : Word) : microOperationOf 0x82 [.bytes k, .u32 c, .bytes n] =
    (vec? 32 k).bind fun k => (vec? 12 n).map fun n => .cc20Init k c n := rfl
theorem microOperationOf_cc20Block (k n : Bytes) (c : Word) : microOperationOf 0x83 [.bytes k, .u32 c, .bytes n] =
    (vec? 32 k).bind fun k => (vec? 12 n).map fun n => .cc20Block k c n := rfl
theorem microOperationOf_ksXor (k n d : Bytes) (c : Word) :
    microOperationOf 0x88 [.bytes k, .bytes n, .u32 c, .bytes d] =
    (vec? 32 k).bind fun k => (vec? 12 n).map fun n => .ksXor k n c d := rfl
theorem microOperationOf_p1305Clamp (k : Bytes) :
    microOperationOf 0x90 [.bytes k] = (vec? 32 k).map fun k => .p1305Clamp k := rfl
theorem microOperationOf_p1305Mac (k m : Bytes) :
    microOperationOf 0x93 [.bytes k, .bytes m] = (vec? 32 k).map fun k => .p1305Mac k m := rfl
theorem microOperationOf_aeadNonce (p : Bytes) (q : BitVec 64) :
    microOperationOf 0xA0 [.bytes p, .u64 q] = (vec? 12 p).map fun p => .aeadNonce p q := rfl
theorem microOperationOf_aeadOtk (k n : Bytes) : microOperationOf 0xA1 [.bytes k, .bytes n] =
    (vec? 32 k).bind fun k => (vec? 12 n).map fun n => .aeadOtk k n := rfl
theorem microOperationOf_aeadTag (k n a c : Bytes) :
    microOperationOf 0xA3 [.bytes k, .bytes n, .bytes a, .bytes c] =
    (vec? 32 k).bind fun k => (vec? 12 n).map fun n => .aeadTag k n a c := rfl
theorem microOperationOf_tagEq (a b : Bytes) : microOperationOf 0xA4 [.bytes a, .bytes b] =
    (vec? 16 a).bind fun x => (vec? 16 b).map fun y => .tagEq x y := rfl

/-- The shape reader of an operation's port reads the operation from its packet. -/
theorem operationOf_encode (i : Instr) : operationOf i.port (encode i).code (encode i).operands = some i := by
  cases i with
  | cc20Init key ctr nonce =>
    exact (microOperationOf_cc20Init _ _ _).trans (by rw [vec?_toList, vec?_toList]; rfl)
  | cc20Block key ctr nonce =>
    exact (microOperationOf_cc20Block _ _ _).trans (by rw [vec?_toList, vec?_toList]; rfl)
  | ksXor key nonce ctr0 data =>
    exact (microOperationOf_ksXor _ _ _ _).trans (by rw [vec?_toList, vec?_toList]; rfl)
  | p1305Clamp otk => exact (microOperationOf_p1305Clamp _).trans (by rw [vec?_toList]; rfl)
  | p1305Mac otk msg => exact (microOperationOf_p1305Mac _ _).trans (by rw [vec?_toList]; rfl)
  | aeadNonce pre seq => exact (microOperationOf_aeadNonce _ _).trans (by rw [vec?_toList]; rfl)
  | aeadOtk key nonce => exact (microOperationOf_aeadOtk _ _).trans (by rw [vec?_toList, vec?_toList]; rfl)
  | aeadTag key nonce aad ct => exact (microOperationOf_aeadTag _ _ _ _).trans (by rw [vec?_toList, vec?_toList]; rfl)
  | tagEq a b => exact (microOperationOf_tagEq _ _).trans (by rw [vec?_toList, vec?_toList]; rfl)
  | _ => rfl

/-- A decoder accepts exactly what its shape reader reads, with a code of its port and operands in their domain. -/
theorem decode_eq_ok {port : Port} {p : Packet} {i : Instr} :
    decode port p = .ok i ↔
      isCodeOf port p.code = true ∧ operationOf port p.code p.operands = some i ∧ i.wellFormed = true := by
  have hc : ∀ o : Option Instr, checkDecoded p.code o = .ok i ↔ o = some i ∧ i.wellFormed = true := by
    intro o
    unfold checkDecoded
    split
    · simp
    · rename_i j
      split
      · rename_i hw
        constructor
        · intro e; cases e; exact ⟨rfl, hw⟩
        · rintro ⟨e, -⟩; cases e; rfl
      · rename_i hw
        constructor
        · intro e; cases e
        · rintro ⟨e, h⟩; cases e; exact absurd h hw
  cases port
  · show decodeCommand p = _ ↔ isCommandCode p.code = true ∧ commandOf p.code p.operands = _ ∧ _
    unfold decodeCommand
    split
    · rename_i h; rw [hc]; simp [h]
    · rename_i h
      constructor
      · intro e; split at e <;> cases e
      · rintro ⟨h', -⟩; exact absurd h' h
  · show decodeLabel p = _ ↔ isLabel p.code = true ∧ microOperationOf p.code p.operands = _ ∧ _
    unfold decodeLabel
    split
    · rename_i h; rw [hc]; simp [h]
    · rename_i h
      constructor
      · intro e; cases e
      · rintro ⟨h', -⟩; exact absurd h' h

end Sys2Proof
end

