-- ==== Sys2Proof/Laws/PerInstr.lean ====
section
/-! SUPPORT. Facts about every operation as syntax, one lemma for each constructor. `CodeOfPort`: an operation's code is one of
its port's, and bit 7 of the code names the port (30_encoding R100, R102, R103). -/

namespace Sys2Proof.Laws

/-- A code is one of a port's, and its bit 7 names that port. -/
abbrev CodeFits (port : Port) (code : Byte) : Prop := isCodeOf port code = true ∧ portOfCode code = port

/-- The code of an operation is a code of its port, and its bit 7 is set exactly at the sequencer's. -/
def CodeOfPort.Statement (i : Instr) : Prop := CodeFits i.port (encode i).code

theorem CodeOfPort.ctxInit (key pre : Bytes) : CodeOfPort.Statement (.ctxInit key pre) := show CodeFits .host 0x01 from by decide
theorem CodeOfPort.ctxDestroy : CodeOfPort.Statement .ctxDestroy := show CodeFits .host 0x02 from by decide
theorem CodeOfPort.sealRecord (seq : BitVec 64) (aad plaintext : Bytes) : CodeOfPort.Statement (.sealRecord seq aad plaintext) := show CodeFits .host 0x03 from by decide
theorem CodeOfPort.openRecord (seq : BitVec 64) (dst : Option Bytes) (aad ctt : Bytes) : CodeOfPort.Statement (.openRecord seq dst aad ctt) := show CodeFits .host 0x04 from by decide
theorem CodeOfPort.ksgInit (key nonce : Bytes) (ctr0 : Word) : CodeOfPort.Statement (.ksgInit key nonce ctr0) := show CodeFits .host 0x05 from by decide
theorem CodeOfPort.ksgNext : CodeOfPort.Statement .ksgNext := show CodeFits .host 0x06 from by decide
theorem CodeOfPort.ksgDestroy : CodeOfPort.Statement .ksgDestroy := show CodeFits .host 0x07 from by decide
theorem CodeOfPort.qr (a b c d : Fin 16) : CodeOfPort.Statement (.qr a b c d) := show CodeFits .sequencer 0x80 from by decide
theorem CodeOfPort.dround : CodeOfPort.Statement .dround := show CodeFits .sequencer 0x81 from by decide
theorem CodeOfPort.cc20Init (key : Key) (ctr : Word) (nonce : Nonce) : CodeOfPort.Statement (.cc20Init key ctr nonce) := show CodeFits .sequencer 0x82 from by decide
theorem CodeOfPort.cc20Block (key : Key) (ctr : Word) (nonce : Nonce) : CodeOfPort.Statement (.cc20Block key ctr nonce) := show CodeFits .sequencer 0x83 from by decide
theorem CodeOfPort.ksXor (key : Key) (nonce : Nonce) (ctr0 : Word) (data : Bytes) : CodeOfPort.Statement (.ksXor key nonce ctr0 data) := show CodeFits .sequencer 0x88 from by decide
theorem CodeOfPort.p1305Clamp (otk : Otk) : CodeOfPort.Statement (.p1305Clamp otk) := show CodeFits .sequencer 0x90 from by decide
theorem CodeOfPort.p1305Block (m : Bytes) : CodeOfPort.Statement (.p1305Block m) := show CodeFits .sequencer 0x91 from by decide
theorem CodeOfPort.p1305Final : CodeOfPort.Statement .p1305Final := show CodeFits .sequencer 0x92 from by decide
theorem CodeOfPort.p1305Mac (otk : Otk) (msg : Bytes) : CodeOfPort.Statement (.p1305Mac otk msg) := show CodeFits .sequencer 0x93 from by decide
theorem CodeOfPort.aeadNonce (pre : Nonce) (seq : BitVec 64) : CodeOfPort.Statement (.aeadNonce pre seq) := show CodeFits .sequencer 0xA0 from by decide
theorem CodeOfPort.aeadOtk (key : Key) (nonce : Nonce) : CodeOfPort.Statement (.aeadOtk key nonce) := show CodeFits .sequencer 0xA1 from by decide
theorem CodeOfPort.aeadMacdata (aad ct : Bytes) : CodeOfPort.Statement (.aeadMacdata aad ct) := show CodeFits .sequencer 0xA2 from by decide
theorem CodeOfPort.aeadTag (key : Key) (nonce : Nonce) (aad ct : Bytes) : CodeOfPort.Statement (.aeadTag key nonce aad ct) := show CodeFits .sequencer 0xA3 from by decide
theorem CodeOfPort.tagEq (a b : Tag) : CodeOfPort.Statement (.tagEq a b) := show CodeFits .sequencer 0xA4 from by decide

end Sys2Proof.Laws
end

