-- ==== Sys2Proof/Tests/Slice0.lean ====
section
/-! SUPPORT. The model's own tests: ill-formed operands, packets written out from the tables of 30_encoding, one operation at a
time against the values of 95_test_vectors, and for each statement with hypotheses one witness that meets them together. -/

namespace Sys2Proof.Tests

-- One theorem at a time: a waiting proof would hold a thread and its stack.
set_option Elab.async false

open Sys2Proof Sys2Proof.Machine Sys2Proof.Safety

/-! ### Helpers -/

/-- The `len` bytes of a number written in hexadecimal, first byte first (30_encoding R106). -/
def hexBytes (len v : Nat) : Bytes := (List.range len).map fun i => BitVec.ofNat 8 (v / 256 ^ (len - 1 - i))

def hexVec (len v : Nat) : Vector Byte len := vecOf (hexBytes len v) (by simp [hexBytes])

/-- Something read from the next state, or nothing where there is none. -/
def readNext {α : Type} (o : Out) (f : State → α) : Option α :=
  match o with
  | .next t => some (f t)
  | .fault _ => none
  | .refused _ => none

/-- There is a next state, and it has a property that can be decided. -/
theorem exists_next {o : Out} {P : State → Prop} [DecidablePred P] (h : readNext o (fun t => decide (P t)) = some true) :
    ∃ t, o = .next t ∧ P t := by
  cases o with
  | next t => exact ⟨t, rfl, by simpa [readNext] using h⟩
  | fault r => cases h
  | refused r => cases h

/-- A running engine with a constructed context. -/
def withContext (key pre : Nat) : State :=
  { State.reset with ctx := { valid := true, key := hexVec 32 key, pre := hexVec 12 pre } }

/-- A running engine with a constructed generator of a zero key and nonce. -/
def withGenerator (ctr : Word) (ovf : Bool) : State :=
  { State.reset with ksg := { valid := true, key := hexVec 32 0, nonce := hexVec 12 0, ctr := ctr, ovf := ovf } }

/-- A running engine with some words in W. -/
def withMatrix (w : Matrix) : State := State.reset.withScratch { Scratch.reset with w := w }

/-- A running engine with some Poly1305 registers. -/
def withPoly (r s : BitVec 128) (acc : BitVec 130) : State :=
  State.reset.withScratch { Scratch.reset with r := r, s := s, acc := acc }

/-- A halted engine that still holds a generator (95_test_vectors, Program 4). -/
def halted : State := { withGenerator 0xffffffff true with faultReg := .counterOverflow, phase := .halt }

/-- What the host reads of a response that may hold a free choice in its buffer. -/
def resultsOf (t : State) : List (Result × Option Bytes) := t.responses.map fun r => (r.result, r.output)

/-- A string longer than MAX_MSG, never evaluated. -/
def tooLong : Bytes := List.replicate ((2 ^ 32 - 1) * 64 + 1) 0

theorem tooLong_length : tooLong.length = (2 ^ 32 - 1) * 64 + 1 := List.length_replicate

/-- Associated data longer than MAX_AAD, never evaluated. -/
def tooLongAad : Bytes := List.replicate (2 ^ 64) 0

theorem tooLongAad_length : tooLongAad.length = 2 ^ 64 := List.length_replicate

/-! ### WellFormed: a term that each check refuses, and one at its bound that it takes -/

theorem test_seal_refuses_long_aad : (Instr.sealRecord 0 tooLongAad []).wellFormed = false := by
  simp [Instr.wellFormed, aadInDomain, Config.maxAad, tooLongAad_length]

theorem test_open_refuses_long_aad : (Instr.openRecord 0 none tooLongAad []).wellFormed = false := by
  simp [Instr.wellFormed, aadInDomain, Config.maxAad, tooLongAad_length]

theorem test_macdata_refuses_long_operands :
    (Instr.aeadMacdata tooLongAad []).wellFormed = false ∧
      (Instr.aeadMacdata [] tooLong).wellFormed = false := by
  simp [Instr.wellFormed, aadInDomain, Config.maxAad, Config.maxMsg, tooLong_length, tooLongAad_length]

theorem test_tag_refuses_long_operands :
    (Instr.aeadTag (hexVec 32 0) (hexVec 12 0) tooLongAad []).wellFormed = false ∧
      (Instr.aeadTag (hexVec 32 0) (hexVec 12 0) [] tooLong).wellFormed = false := by
  simp [Instr.wellFormed, aadInDomain, Config.maxAad, Config.maxMsg, tooLong_length, tooLongAad_length]

/-- A destination is exactly as long as the ciphertext; an input without a ciphertext takes any. -/
theorem test_open_destination :
    (Instr.openRecord 0 (some [1, 2]) [] (hexBytes 17 0)).wellFormed = false ∧
      (Instr.openRecord 0 (some []) [] (hexBytes 17 0)).wellFormed = false ∧
      (Instr.openRecord 0 (some [1]) [] (hexBytes 17 0)).wellFormed = true ∧
      (Instr.openRecord 0 (some []) [] (hexBytes 16 0)).wellFormed = true ∧
      (Instr.openRecord 0 (some [1, 2]) [] (hexBytes 15 0)).wellFormed = true := by decide +kernel

theorem test_qr_indices_distinct :
    (Instr.qr 0 0 1 2).wellFormed = false ∧ (Instr.qr 0 1 0 2).wellFormed = false ∧ (Instr.qr 0 1 2 0).wellFormed = false ∧
      (Instr.qr 0 1 1 2).wellFormed = false ∧ (Instr.qr 0 1 2 1).wellFormed = false ∧
      (Instr.qr 0 1 2 2).wellFormed = false ∧ (Instr.qr 3 2 1 0).wellFormed = true := by decide

theorem test_block_length :
    (Instr.p1305Block []).wellFormed = false ∧ (Instr.p1305Block (hexBytes 17 0)).wellFormed = false ∧
      (Instr.p1305Block (hexBytes 1 0)).wellFormed = true ∧ (Instr.p1305Block (hexBytes 16 0)).wellFormed = true := by
  decide +kernel

/-! ### Decode: the codes of 30_encoding section 2, written out bit by bit -/

theorem test_decode_ctxInit :
    decode .host ⟨0b00000001, [.bytes [7], .bytes []]⟩ = .ok (.ctxInit [7] []) := by decide +kernel
theorem test_decode_ctxDestroy :
    decode .host ⟨0b00000010, []⟩ = .ok .ctxDestroy := by decide +kernel
theorem test_decode_seal :
    decode .host ⟨0b00000011, [.u64 5, .bytes [1], .bytes [2, 3]]⟩ = .ok (.sealRecord 5 [1] [2, 3]) := by decide +kernel
theorem test_decode_open :
    decode .host ⟨0b00000100, [.u64 5, .destination none, .bytes [1], .bytes [2]]⟩ = .ok (.openRecord 5 none [1] [2]) := by decide +kernel
theorem test_decode_ksgInit :
    decode .host ⟨0b00000101, [.bytes [7], .bytes [8], .u32 9]⟩ = .ok (.ksgInit [7] [8] 9) := by decide +kernel
theorem test_decode_ksgNext :
    decode .host ⟨0b00000110, []⟩ = .ok .ksgNext := by decide +kernel
theorem test_decode_ksgDestroy :
    decode .host ⟨0b00000111, []⟩ = .ok .ksgDestroy := by decide +kernel
theorem test_decode_qr :
    decode .sequencer ⟨0b10000000, [.index 1, .index 2, .index 3, .index 15]⟩ = .ok (.qr 1 2 3 15) := by decide +kernel
theorem test_decode_dround :
    decode .sequencer ⟨0b10000001, []⟩ = .ok .dround := by decide +kernel
theorem test_decode_cc20Init :
    decode .sequencer ⟨0b10000010, [.bytes (hexBytes 32 1), .u32 3, .bytes (hexBytes 12 2)]⟩ = .ok (.cc20Init (hexVec 32 1) 3 (hexVec 12 2)) := by decide +kernel
theorem test_decode_cc20Block :
    decode .sequencer ⟨0b10000011, [.bytes (hexBytes 32 1), .u32 3, .bytes (hexBytes 12 2)]⟩ = .ok (.cc20Block (hexVec 32 1) 3 (hexVec 12 2)) := by decide +kernel
theorem test_decode_ksXor :
    decode .sequencer ⟨0b10001000, [.bytes (hexBytes 32 1), .bytes (hexBytes 12 2), .u32 3, .bytes [4]]⟩ = .ok (.ksXor (hexVec 32 1) (hexVec 12 2) 3 [4]) := by decide +kernel
theorem test_decode_p1305Clamp :
    decode .sequencer ⟨0b10010000, [.bytes (hexBytes 32 1)]⟩ = .ok (.p1305Clamp (hexVec 32 1)) := by decide +kernel
theorem test_decode_p1305Block :
    decode .sequencer ⟨0b10010001, [.bytes [4]]⟩ = .ok (.p1305Block [4]) := by decide +kernel
theorem test_decode_p1305Final :
    decode .sequencer ⟨0b10010010, []⟩ = .ok .p1305Final := by decide +kernel
theorem test_decode_p1305Mac :
    decode .sequencer ⟨0b10010011, [.bytes (hexBytes 32 1), .bytes [4]]⟩ = .ok (.p1305Mac (hexVec 32 1) [4]) := by decide +kernel
theorem test_decode_aeadNonce :
    decode .sequencer ⟨0b10100000, [.bytes (hexBytes 12 2), .u64 5]⟩ = .ok (.aeadNonce (hexVec 12 2) 5) := by decide +kernel
theorem test_decode_aeadOtk :
    decode .sequencer ⟨0b10100001, [.bytes (hexBytes 32 1), .bytes (hexBytes 12 2)]⟩ = .ok (.aeadOtk (hexVec 32 1) (hexVec 12 2)) := by decide +kernel
theorem test_decode_aeadMacdata :
    decode .sequencer ⟨0b10100010, [.bytes [1], .bytes [2, 3]]⟩ = .ok (.aeadMacdata [1] [2, 3]) := by decide +kernel
theorem test_decode_aeadTag :
    decode .sequencer ⟨0b10100011, [.bytes (hexBytes 32 1), .bytes (hexBytes 12 2), .bytes [1], .bytes [2, 3]]⟩ = .ok (.aeadTag (hexVec 32 1) (hexVec 12 2) [1] [2, 3]) := by decide +kernel
theorem test_decode_tagEq :
    decode .sequencer ⟨0b10100100, [.bytes (hexBytes 16 1), .bytes (hexBytes 16 2)]⟩ = .ok (.tagEq (hexVec 16 1) (hexVec 16 2)) := by decide +kernel

/-- The host's refused codes (95_test_vectors E12). -/
theorem test_decode_refuses_other_codes :
    decode .host ⟨0x00, []⟩ = .error (.unassignedCode 0x00) ∧ decode .host ⟨0x08, []⟩ = .error (.unassignedCode 0x08) ∧
      decode .host ⟨0x7f, []⟩ = .error (.unassignedCode 0x7f) ∧
      decode .host ⟨0x83, []⟩ = .error (.notHostIssuable 0x83) ∧
      decode .sequencer ⟨0x84, []⟩ = .error (.notALabel 0x84) ∧ decode .sequencer ⟨0x06, []⟩ = .error (.notALabel 0x06) := by
  decide

/-- Operands that are not the row's, and a key of 31 bytes where the row fixes 32. -/
theorem test_decode_refuses_wrong_operands :
    decode .host ⟨0x06, [.bytes []]⟩ = .error (.operandShape 0x06) ∧
      decode .sequencer ⟨0x90, [.bytes (hexBytes 31 0)]⟩ = .error (.operandShape 0x90) ∧
      decode .sequencer ⟨0x91, [.bytes []]⟩ = .error (.outsideDomain 0x91) := by decide +kernel

/-- Each table word alone decodes to its row, and no other byte does (30_encoding R100, R102, R103). -/
theorem test_table_words :
    ((List.range 256).filter fun w => (decodeTableWord 8 w).isSome) =
      [1, 2, 3, 4, 5, 6, 7, 0x80, 0x81, 0x82, 0x83, 0x88, 0x90, 0x91, 0x92, 0x93, 0xA0, 0xA1, 0xA2, 0xA3, 0xA4] := by
  decide +kernel

/-! ### Operations against 95_test_vectors -/

/-- Q1, the worked example, with the four words at scattered places. -/
theorem test_qr_q1 :
    readNext (exec (.qr 2 7 8 13) (withMatrix (vecOf [0, 0, 0x11111111, 0, 0, 0, 0, 0x01020304, 0x9b8d6f43, 0, 0, 0, 0,
      0x01234567, 0, 0] rfl))) (·.scratch.w) =
      some (vecOf [0, 0, 0xea2a92f4, 0, 0, 0, 0, 0xcb1cf8ce, 0x4581472e, 0, 0, 0, 0, 0x5881c4bb, 0, 0] rfl) := by
  decide +kernel

/-- Q1, every addition wraps. -/
theorem test_qr_wraps :
    quarterRound { a := 0xffffffff, b := 0xffffffff, c := 0xffffffff, d := 0xffffffff } =
      { a := 0xf0000ffd, b := 0x88790878, c := 0x0110fdef, d := 0x010ffdf0 } := by decide +kernel

/-- Q0. -/
theorem test_rotl32 :
    rotl32 0x80000000 1 = 0x00000001 ∧ rotl32 0x12345678 12 = 0x45678123 ∧ rotl32 0x12345678 8 = 0x34567812 ∧
      rotl32 0x12345678 7 = 0x1a2b3c09 := by decide +kernel

/-- S1 after one double round. -/
theorem test_dround_s1 :
    readNext (exec .dround (withMatrix (vecOf [0x61707865, 0x3320646e, 0x79622d32, 0x6b206574, 0x00000000, 0x00000000, 0x00000000, 0x00000000, 0x00000000, 0x00000000, 0x00000000, 0x00000000, 0x00000000, 0x00000000, 0x00000000, 0x00000000] rfl))) (·.scratch.w) =
      some (vecOf [0xe45fd249, 0x1bb820a6, 0xe31a88ea, 0xe667a9fe, 0x2a3bf673, 0x86bf4098, 0x460b500a, 0xfa169886, 0x538dca0e, 0x0c439641, 0x00fa16bc, 0x8a08812a, 0x6bbf8b09, 0xc33013d6, 0xbb9f9849, 0x87c62165] rfl) := by decide +kernel

/-- B1's initial matrix. -/
theorem test_cc20Init_b1 :
    readNext (exec (.cc20Init (hexVec 32 0x000102030405060708090a0b0c0d0e0f101112131415161718191a1b1c1d1e1f) 1 (hexVec 12 0x000000090000004a00000000)) State.reset)
        (fun t => (t.scratch.w, t.scratch.w0)) =
      some (vecOf [0x61707865, 0x3320646e, 0x79622d32, 0x6b206574, 0x03020100, 0x07060504, 0x0b0a0908, 0x0f0e0d0c, 0x13121110, 0x17161514, 0x1b1a1918, 0x1f1e1d1c, 0x00000001, 0x09000000, 0x4a000000, 0x00000000] rfl, vecOf [0x61707865, 0x3320646e, 0x79622d32, 0x6b206574, 0x03020100, 0x07060504, 0x0b0a0908, 0x0f0e0d0c, 0x13121110, 0x17161514, 0x1b1a1918, 0x1f1e1d1c, 0x00000001, 0x09000000, 0x4a000000, 0x00000000] rfl) := by decide +kernel

/-- S1, whose first 32 bytes the source gives. -/
theorem test_cc20Block_s1 :
    readNext (exec (.cc20Block (hexVec 32 0) 0 (hexVec 12 0)) State.reset) (·.bus) = some (some (.bytes (hexBytes 64
      0x76b8e0ada0f13d90405d6ae55386bd28bdd219b8a08ded1aa836efcc8b770dc7da41597c5157488d7724e03fb8d84a376a43b8f41518a11cc387b669b2ee6586))) := by
  decide +kernel

/-- B4, every input bit set. -/
theorem test_cc20Block_b4 :
    (cc20Block (hexVec 32 (2 ^ 256 - 1)) 0xffffffff (hexVec 12 (2 ^ 96 - 1))).toList = hexBytes 64
      0xd72b21cfa4b6b0c41d61f62b8a11159c6a4f63bc56c2035796c7ad37811121bbec56d54a530f3a933dd28a50feb23bfaf64f405be985f3718bdf4683e96be749 := by
  decide +kernel

/-- Program 1's construction, over a generator in use. -/
theorem test_ksgInit_replaces :
    readNext (exec (.ksgInit (hexBytes 32 9) (hexBytes 12 3) 0xfffffffe) (withGenerator 0xffffffff true))
        (fun t => (resultsOf t, t.ksg)) =
      some ([(.ok, none)], { valid := true, key := hexVec 32 9, nonce := hexVec 12 3, ctr := 0xfffffffe, ovf := false }) := by
  decide +kernel

/-- E7, E8 and a wrong key and nonce together: the key is reported; the slot stays. -/
theorem test_ksgInit_errors :
    readNext (exec (.ksgInit (hexBytes 31 0) (hexBytes 12 0) 0) (withGenerator 5 false)) (fun t => (resultsOf t, t.ksg)) =
        some ([(.invalidKeyLength, none)], (withGenerator 5 false).ksg) ∧
      readNext (exec (.ksgInit (hexBytes 32 0) (hexBytes 13 0) 0) State.reset) resultsOf =
        some [(.invalidNonceLength, none)] ∧
      readNext (exec (.ksgInit (hexBytes 33 0) (hexBytes 13 0) 0) State.reset) resultsOf =
        some [(.invalidKeyLength, none)] := by and_intros <;> decide +kernel

/-- K1's second block is B2. -/
theorem test_ksgNext_k1 :
    readNext (exec .ksgNext (withGenerator 1 false)) (fun t => (resultsOf t, t.ksg.ctr, t.ksg.ovf)) =
      some ([(.ok, some (hexBytes 64
        0x9f07e7be5551387a98ba977c732d080dcb0f29a048e3656912c6533e32ee7aed29b721769ce64e43d57133b074d839d531ed1f28510afb45ace10a1f4b794d6f))], 2, false) := by
  decide +kernel

/-- K2: block 0xFFFFFFFF is given out once, then the engine faults. -/
theorem test_ksgNext_k2 :
    readNext (exec .ksgNext (withGenerator 0xffffffff false)) (fun t => (resultsOf t, t.ksg.ctr, t.ksg.ovf)) =
        some ([(.ok, some (hexBytes 64
          0xace4cd09e294d1912d4ad205d06f95d9c2f2bfcf453e8753f128765b62215f4d92c74f2f626c6a640c0b1284d839ec81f1696281dafc3e684593937023b58b1d))],
          0xffffffff, true) ∧
      readNext (exec .ksgNext (withGenerator 0xffffffff true)) (fun t => (resultsOf t, t.faultReg, t.phase)) =
        some ([], .counterOverflow, .halt) := by and_intros <;> decide +kernel

/-- Program 1's end. -/
theorem test_ksgDestroy_zeroes :
    readNext (exec .ksgDestroy (withGenerator 2 false)) (fun t => (resultsOf t, t.ksg)) =
      some ([(.ok, none)], State.reset.ksg) := by decide +kernel

/-- K4. -/
theorem test_ksXor_k4 :
    readNext (exec (.ksXor (hexVec 32 0) (hexVec 12 0) 1 (hexBytes 5 0)) State.reset)
        (fun t => (t.bus, t.scratch.ctr, t.scratch.ovf)) =
      some (some (.bytes (hexBytes 5 0x9f07e7be55)), 2, false) := by decide +kernel

/-- K5: bytes 60 to 69 of 70 bytes, across a block boundary. -/
theorem test_ksXor_k5 :
    readNext (exec (.ksXor (hexVec 32 0) (hexVec 12 0) 1 ((List.range 70).map (BitVec.ofNat 8))) State.reset)
        (fun t => t.bus.map fun v => match v with
          | .bytes b => b.drop 60
          | .verdict _ => []) =
      some (some (hexBytes 10 0x774473506d48e2a52763)) := by decide +kernel

/-- P1's clamp. -/
theorem test_p1305Clamp_p1 :
    readNext (exec (.p1305Clamp (hexVec 32 0x85d6be7857556d337f4452fe42d506a80103808afb0db2fd4abff6af4149f51b)) (withPoly 1 2 3))
        (fun t => (t.scratch.r, t.scratch.s, t.scratch.acc)) =
      some (0x0806d5400e52447c036d555408bed685, 0x1bf54941aff6bf4afdb20dfb8a800301, 0) := by decide +kernel

/-- P1's first block. -/
theorem test_p1305Block_p1 :
    readNext (exec (.p1305Block (hexBytes 16 0x43727970746f6772617068696320466f))
        (withPoly 0x0806d5400e52447c036d555408bed685 0 0)) (·.scratch.acc) =
      some 0x2c88c77849d64ae9147ddeb88e69c83fc := by decide +kernel

/-- P1's last block, of 2 bytes, and P5's reduction. -/
theorem test_p1305Block_short :
    readNext (exec (.p1305Block (hexBytes 2 0x7570))
        (withPoly 0x0806d5400e52447c036d555408bed685 0 0x2d8adaf23b0337fa7cccfb4ea344b30de)) (·.scratch.acc) =
        some 0x28d31b7caff946c77c8844335369d03a7 ∧
      readNext (exec (.p1305Block (hexBytes 16 (2 ^ 128 - 1))) (withPoly 4 0 0)) (·.scratch.acc) = some 6 := by
  decide +kernel

/-- P1's tag, and P5's carry out of bit 127. -/
theorem test_p1305Final_p1 :
    readNext (exec .p1305Final (withPoly 0 0x1bf54941aff6bf4afdb20dfb8a800301 0x28d31b7caff946c77c8844335369d03a7)) (·.bus) =
        some (some (.bytes (hexBytes 16 0xa8061dc1305136c6c22b8baf0c0127a9))) ∧
      readNext (exec .p1305Final (withPoly 0 (2 ^ 128 - 1) 0x101)) (·.bus) =
        some (some (.bytes (hexBytes 16 0x00010000000000000000000000000000))) := by decide +kernel

/-- P1. -/
theorem test_p1305Mac_p1 :
    readNext (exec (.p1305Mac (hexVec 32 0x85d6be7857556d337f4452fe42d506a80103808afb0db2fd4abff6af4149f51b)
        (hexBytes 34 0x43727970746f6772617068696320466f72756d2052657365617263682047726f7570)) State.reset) (·.bus) =
      some (some (.bytes (hexBytes 16 0xa8061dc1305136c6c22b8baf0c0127a9))) := by decide +kernel

/-- P4's 17-byte message. -/
theorem test_p1305Mac_p4 :
    readNext (exec (.p1305Mac (hexVec 32 (2 ^ 256 - 1)) (hexBytes 17 (2 ^ 136 - 1))) State.reset) (·.bus) =
      some (some (.bytes (hexBytes 16 0x7cfe7ff768f81f2763f8bf565df85f86))) := by decide +kernel

/-- Program 5's construction. -/
theorem test_ctxInit_replaces :
    readNext (exec (.ctxInit (hexBytes 32 9) (hexBytes 12 3)) (withContext 1 2)) (fun t => (resultsOf t, t.ctx)) =
      some ([(.ok, none)], { valid := true, key := hexVec 32 9, pre := hexVec 12 3 }) := by decide +kernel

/-- E1 to E6, over a constructed context, which stays (E14). -/
theorem test_ctxInit_errors :
    readNext (exec (.ctxInit (hexBytes 31 0) (hexBytes 12 0)) (withContext 1 2)) (fun t => (resultsOf t, t.ctx)) =
        some ([(.invalidKeyLength, none)], (withContext 1 2).ctx) ∧
      readNext (exec (.ctxInit [] (hexBytes 12 0)) State.reset) resultsOf = some [(.invalidKeyLength, none)] ∧
      readNext (exec (.ctxInit (hexBytes 32 0) (hexBytes 8 0)) State.reset) resultsOf = some [(.invalidNonceLength, none)] ∧
      readNext (exec (.ctxInit (hexBytes 16 0) (hexBytes 8 0)) State.reset) resultsOf = some [(.invalidKeyLength, none)] := by
  and_intros <;> decide +kernel

/-- Program 2's end. -/
theorem test_ctxDestroy_zeroes :
    readNext (exec .ctxDestroy (withContext 1 2)) (fun t => (resultsOf t, t.ctx)) =
      some ([(.ok, none)], State.reset.ctx) := by decide +kernel

/-- A1. -/
theorem test_aeadNonce_a1 :
    readNext (exec (.aeadNonce (hexVec 12 0xa0a1a2a3a4a5a6a7a8a9aaab) 0x0102030405060708) State.reset) (·.bus) =
      some (some (.bytes (hexBytes 12 0xa0a1a2a3a5a7a5a3adafada3))) := by decide +kernel

/-- S2, which the source gives. -/
theorem test_aeadOtk_s2 :
    readNext (exec (.aeadOtk (hexVec 32 0x808182838485868788898a8b8c8d8e8f909192939495969798999a9b9c9d9e9f)
        (hexVec 12 0x000000000001020304050607)) State.reset) (fun t => (t.bus, t.scratch.ctr)) =
      some (some (.bytes (hexBytes 32 0x8ad5a08b905f81cc815040274ab29471a833b637e3fd0da508dbb8e2fdd1a646)), 1) := by
  decide +kernel

/-- A2: padding on one side only, and none on a multiple of 16. -/
theorem test_aeadMacdata_a2 :
    readNext (exec (.aeadMacdata [] (hexBytes 17 0x1111111111111111111111111111111111)) State.reset) (·.bus) =
        some (some (.bytes (hexBytes 17 0x1111111111111111111111111111111111 ++ hexBytes 31 0x1100000000000000))) ∧
      readNext (exec (.aeadMacdata (hexBytes 16 5) (hexBytes 16 6)) State.reset) (·.bus) =
        some (some (.bytes (hexBytes 16 5 ++ hexBytes 16 6 ++ hexBytes 16 0x10000000000000001000000000000000))) := by
  decide +kernel

/-- Program 3's tag. -/
theorem test_aeadTag_program3 :
    readNext (exec (.aeadTag (hexVec 32 0x000102030405060708090a0b0c0d0e0f101112131415161718191a1b1c1d1e1f) (hexVec 12 1)
        (hexBytes 3 0x010203) (hexBytes 5 0x013910b55e)) State.reset) (fun t => (t.bus, t.scratch.tag)) =
      some (some (.bytes (hexBytes 16 0x8d67a5915d681de397b8040a548a65a7)), hexVec 16 0x8d67a5915d681de397b8040a548a65a7) := by
  decide +kernel

/-- A4: a difference in the last byte, and in the first. -/
theorem test_tagEq_a4 :
    readNext (exec (.tagEq (hexVec 16 0) (hexVec 16 1)) State.reset) (fun t => (t.bus, t.scratch.diff)) =
        some (some (.verdict false), 1) ∧
      readNext (exec (.tagEq (hexVec 16 (0x80 * 2 ^ 120)) (hexVec 16 0)) State.reset) (fun t => (t.bus, t.scratch.diff)) =
        some (some (.verdict false), 0x80) ∧
      readNext (exec (.tagEq (hexVec 16 7) (hexVec 16 7)) State.reset) (fun t => (t.bus, t.scratch.diff)) =
        some (some (.verdict true), 0) := by decide +kernel

/-- Program 3's first SEAL. -/
theorem test_seal_program3 :
    readNext (exec (.sealRecord 1 [1, 2, 3] (hexBytes 5 0x68656c6c6f))
        (withContext 0x000102030405060708090a0b0c0d0e0f101112131415161718191a1b1c1d1e1f 0)) (·.responses) =
      some [{ result := .ok, output := some (hexBytes 21 0x013910b55e8d67a5915d681de397b8040a548a65a7), buffer := none }] := by
  decide +kernel

/-- S3: the 265-byte record whose tag the source gives. -/
theorem test_seal_s3 :
    readNext (exec (.sealRecord 0 (hexBytes 12 0xf33388860000000000004e91) (
    hexBytes 40 0x496e7465726e65742d4472616674732061726520647261667420646f63756d656e74732076616c69 ++
    hexBytes 40 0x6420666f722061206d6178696d756d206f6620736978206d6f6e74687320616e64206d6179206265 ++
    hexBytes 40 0x20757064617465642c207265706c616365642c206f72206f62736f6c65746564206279206f746865 ++
    hexBytes 40 0x7220646f63756d656e747320617420616e792074696d652e20497420697320696e617070726f7072 ++
    hexBytes 40 0x6961746520746f2075736520496e7465726e65742d447261667473206173207265666572656e6365 ++
    hexBytes 40 0x206d6174657269616c206f7220746f2063697465207468656d206f74686572207468616e20617320 ++
    hexBytes 25 0x2fe2809c776f726b20696e2070726f67726573732e2fe2809d))
        (withContext 0x1c9240a5eb55d38af333888604f6b5f0473917c1402b80099dca5cbc207075c0 0x000000000102030405060708)) resultsOf =
      some [(.ok, some (
    hexBytes 40 0x64a0861575861af460f062c79be643bd5e805cfd345cf389f108670ac76c8cb24c6cfc18755d43ee ++
    hexBytes 40 0xa09ee94e382d26b0bdb7b73c321b0100d4f03b7f355894cf332f830e710b97ce98c8a84abd0b9481 ++
    hexBytes 40 0x14ad176e008d33bd60f982b1ff37c8559797a06ef4f0ef61c186324e2b3506383606907b6a7c02b0 ++
    hexBytes 40 0xf9f6157b53c867e4b9166c767b804d46a59b5216cde7a4e99040c5a40433225ee282a1b0a06c523e ++
    hexBytes 40 0xaf4534d7f83fa1155b0047718cbc546a0d072b04b3564eea1b422273f548271a0bb2316053fa7699 ++
    hexBytes 40 0x1955ebd63159434ecebb4e466dae5a1073a6727627097a1049e617d91d361094fa68f0ff77987130 ++
    hexBytes 25 0x305beaba2eda04df997b714d6c6f2c29a6ad5cb4022b02709b ++
    hexBytes 16 0xeead9d67890cbb22392336fea1851f38))] := by
  decide +kernel

/-- Program 3's first OPEN, in place: the plaintext stands over the ciphertext, the tag bytes stay. -/
theorem test_open_program3 :
    readNext (exec (.openRecord 1 none [1, 2, 3] (hexBytes 21 0x013910b55e8d67a5915d681de397b8040a548a65a7))
        (withContext 0x000102030405060708090a0b0c0d0e0f101112131415161718191a1b1c1d1e1f 0)) (·.responses) =
      some [{ result := .ok, output := some (hexBytes 5 0x68656c6c6f)
              buffer := some (hexBytes 21 0x68656c6c6f8d67a5915d681de397b8040a548a65a7) }] := by decide +kernel

/-- Program 3's failing OPENs: a ciphertext byte, a tag byte, the associated data, the sequence number, 15 bytes. -/
theorem test_open_failures :
    readNext (exec (.openRecord 1 none [1, 2, 3] (hexBytes 21 0x003910b55e8d67a5915d681de397b8040a548a65a7))
        (withContext 0x000102030405060708090a0b0c0d0e0f101112131415161718191a1b1c1d1e1f 0)) resultsOf =
        some [(.authenticationFailure, none)] ∧
      readNext (exec (.openRecord 1 none [1, 2, 3] (hexBytes 21 0x013910b55e8d67a5915d681de397b8040a548a65a6))
        (withContext 0x000102030405060708090a0b0c0d0e0f101112131415161718191a1b1c1d1e1f 0)) resultsOf =
        some [(.authenticationFailure, none)] ∧
      readNext (exec (.openRecord 1 none [1, 2, 2] (hexBytes 21 0x013910b55e8d67a5915d681de397b8040a548a65a7))
        (withContext 0x000102030405060708090a0b0c0d0e0f101112131415161718191a1b1c1d1e1f 0)) resultsOf =
        some [(.authenticationFailure, none)] ∧
      readNext (exec (.openRecord 2 none [1, 2, 3] (hexBytes 21 0x013910b55e8d67a5915d681de397b8040a548a65a7))
        (withContext 0x000102030405060708090a0b0c0d0e0f101112131415161718191a1b1c1d1e1f 0)) resultsOf =
        some [(.authenticationFailure, none)] ∧
      readNext (exec (.openRecord 1 none [1, 2, 3] (hexBytes 15 0x013910b55e8d67a5915d681de397b8))
        (withContext 0x000102030405060708090a0b0c0d0e0f101112131415161718191a1b1c1d1e1f 0)) resultsOf =
        some [(.malformedInput, none)] := by and_intros <;> decide +kernel

/-- The numbers of the results (30_encoding R104). -/
theorem test_result_codes :
    [Result.ok, .invalidKeyLength, .invalidNonceLength, .malformedInput, .authenticationFailure].map Result.code =
      [0, 1, 2, 3, 4] := by decide

/-- E10, E11: refused on a reset engine; Program 4's last command and reset after it. -/
theorem test_stops_and_reset :
    exec (.sealRecord 0 [] []) State.reset = .refused .contextNotConstructed ∧
      exec .ksgNext State.reset = .refused .generatorNotConstructed ∧
      exec (.ksgInit (hexBytes 32 0) (hexBytes 12 0) 0) halted = .fault .halted ∧
      readNext (step { halted with pending := [.reset, .present .host ⟨0x06, []⟩] })
          (fun t => (t.ksg, t.faultReg, t.phase, t.pending)) =
        some (State.reset.ksg, .none, .idle, [.present .host ⟨0x06, []⟩]) :=
  ⟨rfl, rfl, rfl, by decide +kernel⟩

/-! ### Witnesses: for each statement with hypotheses, a state and operands that meet them together -/

theorem reset_running : Running State.reset := rfl

theorem halted_not_running : ¬ Running halted := by decide

theorem withContext_valid (key pre : Nat) : (withContext key pre).ctx.valid = true := rfl

theorem witness_DecodeOfEncodeIsInstruction :
    (Instr.qr 0 1 2 3).wellFormed = true ∧ (Instr.openRecord 0 (some [9]) [] (hexBytes 17 0)).wellFormed = true ∧
      (Instr.p1305Block (hexBytes 16 0)).wellFormed = true := by decide +kernel

theorem witness_AcceptedPacketIsItsEncoding :
    decode .host ⟨0x03, [.u64 5, .bytes [1], .bytes [2, 3]]⟩ = .ok (.sealRecord 5 [1] [2, 3]) := by decide +kernel

/-- The codes at the ends of both ranges: 0x00, 0x08, 0x7F, 0x80, 0xFF. -/
theorem witness_HostPortRefusesOtherCodes :
    ∀ c ∈ ([0x00, 0x08, 0x7f, 0x80, 0xff] : List Byte),
      ({ State.reset with pending := [.present .host ⟨c, []⟩] } : State).pending = .present .host ⟨c, []⟩ :: [] ∧
        Running { State.reset with pending := [.present .host ⟨c, []⟩] } ∧ (c = 0 ∨ 8 ≤ c.toNat) := by decide

theorem witness_StepPerformsDecodedOperation :
    ({ State.reset with pending := [.present .host ⟨0x06, []⟩] } : State).pending = .present .host ⟨0x06, []⟩ :: [] ∧
      Running { State.reset with pending := [.present .host ⟨0x06, []⟩] } ∧ decode .host ⟨0x06, []⟩ = .ok .ksgNext ∧
      State.reset.pending = [] ∧ Running State.reset := by decide

theorem witness_PlacedTableWordIsPerformedNext :
    decodeTableWord 8 0x92 = some .p1305Final ∧ decodeTableWord 8 0x06 = some .ksgNext ∧ Running State.reset := by decide

/-- The step of that word, on an engine whose registers it reads. -/
theorem test_step_placed_word :
    readNext (step ((withPoly 0 (2 ^ 128 - 1) 0x101).withFetchWord 8 0x92)) (·.bus) =
      some (some (.bytes (hexBytes 16 0x00010000000000000000000000000000))) := by decide +kernel

theorem witness_ResetRestoresEveryState :
    ({ halted with pending := [.reset] } : State).pending = .reset :: [] ∧ ¬ Running { halted with pending := [.reset] } := by
  decide

theorem witness_StepKeepsSlotInvariant :
    SlotInvariant { withGenerator 0xffffffff true with pending := [.present .host ⟨0x06, []⟩] } ∧
      ∃ t, step { withGenerator 0xffffffff true with pending := [.present .host ⟨0x06, []⟩] } = .next t ∧
        t.phase = .halt :=
  ⟨by decide +kernel, exists_next (by decide +kernel)⟩

/-- And from a slot that is not valid, and from a generator whose overflow bit the step sets. -/
theorem witness_StepKeepsSlotInvariant_other :
    SlotInvariant { withGenerator 0xffffffff false with pending := [.present .host ⟨0x06, []⟩] } ∧
      ∃ t, step { withGenerator 0xffffffff false with pending := [.present .host ⟨0x06, []⟩] } = .next t ∧
        t.ksg.ovf = true ∧ t.ctx.valid = false :=
  ⟨by decide +kernel, exists_next (by decide +kernel)⟩

theorem witness_HaltedEnginePerformsNothing : ¬ Running halted := halted_not_running

theorem witness_OnlyResetLeavesHalt :
    ¬ Running { halted with pending := [.reset] } ∧ ∃ t, step { halted with pending := [.reset] } = .next t ∧ Running t :=
  ⟨by decide, exists_next (by decide +kernel)⟩

theorem tooLong_overlong : Config.maxMsg < tooLong.length := by rw [tooLong_length, Config.maxMsg]; omega

theorem tooLong_tag_overlong : Config.maxMsg < (tooLong ++ hexBytes 16 0).length - 16 := by
  rw [List.length_append, tooLong_length, Config.maxMsg, show (hexBytes 16 0).length = 16 from rfl]; omega

/-- SEAL of any plaintext that is too long faults; said without evaluating one. -/
theorem seal_overlong (x : Bytes) (h : Config.maxMsg < x.length) :
    exec (.sealRecord 0 [] x) (withContext 1 2) = .next (withContext 1 2).takeCounterOverflow := by
  refine (perform_of_running (i := .sealRecord 0 [] x) (s := withContext 1 2) rfl rfl _).trans ?_
  refine (needContext_of_valid (s := withContext 1 2) rfl _).trans ?_
  rw [if_pos h]
  rfl

/-- OPEN of any ciphertext that is too long too. -/
theorem open_overlong (x : Bytes) (h : Config.maxMsg < x.length - 16) :
    exec (.openRecord 0 none [] x) (withContext 1 2) = .next (withContext 1 2).takeCounterOverflow := by
  have hw : (Instr.openRecord 0 none [] x).wellFormed = true := by
    simp [Instr.wellFormed, aadInDomain, destinationInDomain]
  have hc : (ciphertextOf x).length = x.length - 16 := by
    rw [ciphertextOf, memRead, List.length_take, List.length_drop]; omega
  refine (perform_of_running (s := withContext 1 2) rfl hw _).trans ?_
  refine (needContext_of_valid (s := withContext 1 2) rfl _).trans ?_
  rw [dif_neg (by omega)]
  dsimp only
  rw [if_pos (by rw [hc]; exact h)]
  rfl

/-- One witness for each of the four ways the engine halts. -/
theorem witness_OnlyCounterOverflowHalts :
    (Running (withGenerator 0xffffffff true) ∧ ∃ t, exec .ksgNext (withGenerator 0xffffffff true) = .next t ∧ ¬ Running t) ∧
      (Running (withContext 1 2) ∧ ∃ t, exec (.sealRecord 0 [] tooLong) (withContext 1 2) = .next t ∧ ¬ Running t) ∧
      (Running (withContext 1 2) ∧
        ∃ t, exec (.openRecord 0 none [] (tooLong ++ hexBytes 16 0)) (withContext 1 2) = .next t ∧ ¬ Running t) ∧
      (Running State.reset ∧
        ∃ t, exec (.ksXor (hexVec 32 0) (hexVec 12 0) 0xffffffff (hexBytes 65 0)) State.reset = .next t ∧ ¬ Running t) :=
  ⟨⟨rfl, exists_next (by decide +kernel)⟩, ⟨rfl, _, seal_overlong _ tooLong_overlong, by decide⟩,
    ⟨rfl, _, open_overlong _ tooLong_tag_overlong, by decide⟩,
    ⟨rfl, exists_next (by decide +kernel)⟩⟩

theorem witness_OperandOutsideDomainRefused :
    Running State.reset ∧ (Instr.qr 0 0 1 2).wellFormed = false ∧ (Instr.p1305Block []).wellFormed = false := by decide

theorem witness_UnconstructedSlotRefused :
    Running State.reset ∧ State.reset.ctx.valid = false ∧ State.reset.ksg.valid = false ∧
      (Instr.sealRecord 0 [] []).wellFormed = true ∧ (Instr.openRecord 0 none [] (hexBytes 16 0)).wellFormed = true := by
  decide +kernel

theorem witness_CommandsReadNoScratch :
    Instr.ctxDestroy.port = .host ∧ (Instr.sealRecord 0 [] []).port = .host ∧ Instr.ksgNext.port = .host := by decide

theorem witness_SlotsAreIndependent :
    (∃ t, exec .ksgNext (withGenerator 0 false) = .next t ∧ Running t) ∧
      (∃ t, exec .ksgDestroy (withGenerator 0 false) = .next t ∧ Running t) ∧
      (∃ t, exec (.ksgInit (hexBytes 32 0) (hexBytes 12 0) 0) State.reset = .next t ∧ Running t) ∧
      (∃ t, exec .ctxDestroy (withContext 1 2) = .next t ∧ Running t) ∧
      (∃ t, exec (.ctxInit (hexBytes 32 0) (hexBytes 12 0)) State.reset = .next t ∧ Running t) ∧
      (∃ t, exec (.sealRecord 0 [] [1]) (withContext 1 2) = .next t ∧ Running t) ∧
      (∃ t, exec (.openRecord 0 none [] (hexBytes 16 0)) (withContext 1 2) = .next t ∧ Running t) := by
  and_intros <;> exact exists_next (by decide +kernel)

/-- A micro-operation that returns, and one that faults. -/
theorem witness_MicroOperationsStayInside :
    Instr.dround.port = .sequencer ∧ (∃ t, exec .dround State.reset = .next t ∧ Running t) ∧
      (Instr.ksXor (hexVec 32 0) (hexVec 12 0) 0xffffffff (hexBytes 65 0)).port = .sequencer ∧
      ∃ t, exec (.ksXor (hexVec 32 0) (hexVec 12 0) 0xffffffff (hexBytes 65 0)) State.reset = .next t ∧ ¬ Running t :=
  ⟨rfl, exists_next (by decide +kernel), rfl, exists_next (by decide +kernel)⟩

theorem witness_OneResponsePerCommand :
    Instr.ksgNext.port = .host ∧ (∃ t, exec .ksgNext (withGenerator 0 false) = .next t ∧ Running t) ∧
      ∃ t, exec .ksgNext (withGenerator 0xffffffff true) = .next t ∧ ¬ Running t :=
  ⟨rfl, exists_next (by decide +kernel), exists_next (by decide +kernel)⟩

theorem witness_QuarterRoundSteps : Running State.reset ∧ indicesDistinct 15 0 7 3 = true := by decide

theorem witness_QuarterRoundInjective :
    quarterRound { a := 1, b := 2, c := 3, d := 4 } = quarterRound { a := 1, b := 2, c := 3, d := 4 } := rfl

theorem witness_DoubleRoundLanes : Running (withMatrix (Vector.replicate 16 1)) := rfl

theorem witness_InitialMatrixLayout : Running State.reset := rfl

theorem witness_BlockIsTenDoubleRoundsFedForward : Running State.reset := rfl

/-- Each clause: a key of 31 and of 33 bytes; a right key with a nonce of 11 and of 13; both right. -/
theorem witness_GeneratorConstructed :
    Running (withGenerator 5 true) ∧ (hexBytes 31 0).length ≠ 32 ∧ (hexBytes 33 0).length ≠ 32 ∧
      ¬ (hexBytes 32 0).length ≠ 32 ∧ (hexBytes 11 0).length ≠ 12 ∧ (hexBytes 13 0).length ≠ 12 ∧
      ¬ (hexBytes 12 0).length ≠ 12 := by decide +kernel

/-- A key of 31, 32 and 33 bytes. -/
theorem witness_KeyLengthChecked :
    Running State.reset ∧ (hexBytes 31 0).length ≠ 32 ∧ (hexBytes 32 0).length = 32 ∧ (hexBytes 33 0).length ≠ 32 := by
  decide +kernel

/-- A right key with a nonce of 11, 12 and 13 bytes. -/
theorem witness_NonceLengthChecked :
    Running State.reset ∧ (hexBytes 32 0).length = 32 ∧ (hexBytes 11 0).length ≠ 12 ∧ (hexBytes 12 0).length = 12 ∧
      (hexBytes 13 0).length ≠ 12 := by decide +kernel

/-- Each clause: below the last counter, at it, and with the overflow bit set. -/
theorem witness_NextKeystreamBlock :
    (Running (withGenerator 0xfffffffe false) ∧ (withGenerator 0xfffffffe false).ksg.valid = true ∧
        (withGenerator 0xfffffffe false).ksg.ovf = false ∧ (withGenerator 0xfffffffe false).ksg.ctr.toNat < 2 ^ 32 - 1) ∧
      (Running (withGenerator 0xffffffff false) ∧ (withGenerator 0xffffffff false).ksg.valid = true ∧
        (withGenerator 0xffffffff false).ksg.ovf = false ∧ (withGenerator 0xffffffff false).ksg.ctr.toNat = 2 ^ 32 - 1) ∧
      (Running (withGenerator 0xffffffff true) ∧ (withGenerator 0xffffffff true).ksg.valid = true ∧
        (withGenerator 0xffffffff true).ksg.ovf = true) := by decide +kernel

/-- Two blocks, the last of them block 0xFFFFFFFF. -/
theorem witness_BlockSequence :
    Running (withGenerator 0xfffffffe false) ∧ (withGenerator 0xfffffffe false).ksg.valid = true ∧
      (withGenerator 0xfffffffe false).ksg.ovf = false ∧ (withGenerator 0xfffffffe false).ksg.ctr.toNat + 2 ≤ 2 ^ 32 := by
  decide +kernel

theorem witness_GeneratorDestroyed :
    Running (withGenerator 7 false) ∧ (withGenerator 7 false).ksg.valid = true := by decide +kernel

/-- Two blocks that end at the last counter, and data of no bytes at the last counter. -/
theorem witness_KeystreamMasking :
    Running State.reset ∧ (0xfffffffe : Word).toNat + blocksNeeded (hexBytes 65 0).length ≤ 2 ^ 32 ∧
      (0xffffffff : Word).toNat + blocksNeeded ([] : Bytes).length ≤ 2 ^ 32 := by decide +kernel

/-- One byte past a block at the last counter. -/
theorem witness_MaskingPastLastCounterFaults :
    Running State.reset ∧ 2 ^ 32 < (0xffffffff : Word).toNat + blocksNeeded (hexBytes 65 0).length := by decide +kernel

theorem witness_MaskingIsInvolution :
    Running State.reset ∧ ∃ t, exec (.ksXor (hexVec 32 0) (hexVec 12 0) 1 (hexBytes 5 0)) State.reset = .next t ∧
      t.bus = some (.bytes (hexBytes 5 0x9f07e7be55)) ∧ Running t :=
  ⟨rfl, exists_next (by decide +kernel)⟩

theorem witness_ClampLoadsOneTimeKey : Running (withPoly 1 2 3) := rfl

/-- Blocks of 1 and of 16 bytes. -/
theorem witness_BlockAbsorbed :
    Running (withPoly 4 0 0) ∧ (1 ≤ (hexBytes 1 0).length ∧ (hexBytes 1 0).length ≤ 16) ∧
      (1 ≤ (hexBytes 16 0).length ∧ (hexBytes 16 0).length ≤ 16) := by decide +kernel

theorem witness_FinalTag : Running (withPoly 0 (2 ^ 128 - 1) 0x101) := rfl

theorem witness_MacIsItsMicroOperations : Running State.reset := rfl

/-- The empty message, and a one-time key whose r is zero (P3). -/
theorem witness_MacCornerCases :
    Running State.reset ∧ ([] : Bytes) = [] ∧ clampedR (hexVec 32 0x000102030405060708090a0b0c0d0e0f) = 0 := by
  decide +kernel

theorem witness_ContextConstructed :
    Running (withContext 1 2) ∧ (hexBytes 31 0).length ≠ 32 ∧ (hexBytes 33 0).length ≠ 32 ∧
      ¬ (hexBytes 32 0).length ≠ 32 ∧ (hexBytes 11 0).length ≠ 12 ∧ (hexBytes 13 0).length ≠ 12 ∧
      ¬ (hexBytes 12 0).length ≠ 12 := by decide +kernel

theorem witness_ContextDestroyed : Running (withContext 1 2) ∧ (withContext 1 2).ctx.valid = true := by decide +kernel

theorem witness_NonceDerivation : Running State.reset := rfl

theorem witness_NonceNeverRepeats :
    ∃ t, exec (.aeadNonce (hexVec 12 9) 5) State.reset = .next t ∧ t.bus = t.bus := ⟨_, rfl, rfl⟩

theorem witness_OneTimeKeyFromBlockZero : Running State.reset := rfl

theorem witness_MacDataLayout :
    Running State.reset ∧ ([] : Bytes).length ≤ Config.maxAad ∧ (hexBytes 17 0).length ≤ Config.maxAad ∧
      (hexBytes 16 0).length ≤ Config.maxMsg := by decide +kernel

theorem witness_MacDataInjective :
    ∃ t, exec (.aeadMacdata [1] [2]) State.reset = .next t ∧ t.bus = t.bus := ⟨_, rfl, rfl⟩

theorem witness_TagOfRecord :
    Running State.reset ∧ (hexBytes 3 0).length ≤ Config.maxAad ∧ (hexBytes 5 0).length ≤ Config.maxMsg := by decide +kernel

theorem witness_TagComparison : Running State.reset := rfl

theorem witness_SealResult :
    Running (withContext 1 2) ∧ (withContext 1 2).ctx.valid = true ∧ ([] : Bytes).length ≤ Config.maxAad ∧
      (hexBytes 65 0).length ≤ Config.maxMsg := by decide +kernel

/-- One byte more than MAX_MSG. -/
theorem witness_OverlongRecordFaults :
    Running (withContext 1 2) ∧ (withContext 1 2).ctx.valid = true ∧ ([] : Bytes).length ≤ Config.maxAad ∧
      Config.maxMsg < tooLong.length ∧ Config.maxMsg < (tooLong ++ hexBytes 16 0).length - 16 ∧
      destinationInDomain none (tooLong ++ hexBytes 16 0) = true :=
  ⟨rfl, rfl, by decide +kernel, tooLong_overlong, tooLong_tag_overlong, by simp [destinationInDomain]⟩

theorem witness_SealIsDeterministic :
    Running (withContext 1 2) ∧ Running { withContext 1 2 with ksg := (withGenerator 5 false).ksg } ∧
      ({ withContext 1 2 with ksg := (withGenerator 5 false).ksg } : State).ctx = (withContext 1 2).ctx ∧
      ∃ t, exec (.sealRecord 3 [1] [2]) (withContext 1 2) = .next t ∧ Running t :=
  ⟨rfl, rfl, rfl, exists_next (by decide +kernel)⟩

/-- Inputs of 15 and of 16 bytes; the second clause's hypotheses are met by the first. -/
theorem witness_MalformedInputExactlyWhenShort :
    Running (withContext 1 2) ∧ (withContext 1 2).ctx.valid = true ∧
      (Instr.openRecord 0 none [] (hexBytes 15 0)).wellFormed = true ∧ (hexBytes 15 0).length < 16 ∧
      (Instr.openRecord 0 none [] (hexBytes 16 0)).wellFormed = true ∧
      ∃ t, exec (.openRecord 0 none [] (hexBytes 15 0)) (withContext 1 2) = .next t ∧
        t.responses = (withContext 1 2).responses ++
          [{ result := .malformedInput, output := none, buffer := some (hexBytes 15 0) }] :=
  ⟨rfl, rfl, by decide +kernel, by decide +kernel, by decide +kernel, exists_next (by decide +kernel)⟩

/-- In place and to a destination, of one byte. -/
theorem witness_OpenAccepts :
    Running (withContext 1 2) ∧ (withContext 1 2).ctx.valid = true ∧ ([7] : Bytes).length ≤ Config.maxAad ∧
      ([8] : Bytes).length ≤ Config.maxMsg ∧ (∀ d, (none : Option Bytes) = some d → d.length = [(8 : Byte)].length) ∧
      (∀ d, some [(9 : Byte)] = some d → d.length = [(8 : Byte)].length) ∧
      recordTag (withContext 1 2).ctx.key (deriveNonce (withContext 1 2).ctx.pre 3) [7] [8] =
        recordTag (withContext 1 2).ctx.key (deriveNonce (withContext 1 2).ctx.pre 3) [7] [8] :=
  ⟨rfl, rfl, by decide +kernel, by decide +kernel, by simp, by simp, rfl⟩

theorem witness_OpenRejects :
    Running (withContext 1 2) ∧ (withContext 1 2).ctx.valid = true ∧ ([7] : Bytes).length ≤ Config.maxAad ∧
      ([8] : Bytes).length ≤ Config.maxMsg ∧ (∀ d, (none : Option Bytes) = some d → d.length = [(8 : Byte)].length) ∧
      (∀ d, some [(9 : Byte)] = some d → d.length = [(8 : Byte)].length) ∧
      hexVec 16 0 ≠ recordTag (withContext 1 2).ctx.key (deriveNonce (withContext 1 2).ctx.pre 3) [7] [8] :=
  ⟨rfl, rfl, by decide +kernel, by decide +kernel, by simp, by simp, by decide +kernel⟩

/-- Program 3's OPEN. -/
theorem witness_OpenReleasesOnlyVerifiedPlaintext :
    ∃ t, exec (.openRecord 1 none [1, 2, 3] (hexBytes 21 0x013910b55e8d67a5915d681de397b8040a548a65a7))
        (withContext 0x000102030405060708090a0b0c0d0e0f101112131415161718191a1b1c1d1e1f 0) = .next t ∧
      t.responses = (withContext 0x000102030405060708090a0b0c0d0e0f101112131415161718191a1b1c1d1e1f 0).responses ++
        [{ result := .ok, output := some (hexBytes 5 0x68656c6c6f)
           buffer := some (hexBytes 21 0x68656c6c6f8d67a5915d681de397b8040a548a65a7) }] :=
  exists_next (by decide +kernel)

theorem witness_SealThenOpenReturnsPlaintext :
    Running (withContext 1 2) ∧ Running { withContext 1 2 with ksg := (withGenerator 5 false).ksg } ∧
      (withContext 1 2).ctx.valid = true ∧
      ({ withContext 1 2 with ksg := (withGenerator 5 false).ksg } : State).ctx = (withContext 1 2).ctx ∧
      ([7] : Bytes).length ≤ Config.maxAad ∧ ([8] : Bytes).length ≤ Config.maxMsg ∧
      (∀ d, (none : Option Bytes) = some d → d.length = [(8 : Byte)].length) ∧
      (∀ d, some [(9 : Byte)] = some d → d.length = [(8 : Byte)].length) :=
  ⟨rfl, rfl, rfl, rfl, by decide +kernel, by decide +kernel, by simp, by simp⟩

/-- Program 3's SEAL, and its tag with the last bit changed. -/
theorem witness_ChangedTagFailsToOpen :
    (∃ t, exec (.sealRecord 1 [1, 2, 3] (hexBytes 5 0x68656c6c6f))
        (withContext 0x000102030405060708090a0b0c0d0e0f101112131415161718191a1b1c1d1e1f 0) = .next t ∧
      t.responses = (withContext 0x000102030405060708090a0b0c0d0e0f101112131415161718191a1b1c1d1e1f 0).responses ++
        [{ result := .ok
           output := some (hexBytes 5 0x013910b55e ++ (hexVec 16 0x8d67a5915d681de397b8040a548a65a7).toList)
           buffer := none }]) ∧
      Running (withContext 0x000102030405060708090a0b0c0d0e0f101112131415161718191a1b1c1d1e1f 0) ∧
      hexVec 16 0x8d67a5915d681de397b8040a548a65a6 ≠ hexVec 16 0x8d67a5915d681de397b8040a548a65a7 :=
  ⟨exists_next (by decide +kernel), rfl, by decide +kernel⟩

theorem witness_InPlaceAndSeparateAgree :
    (∃ t, exec (.openRecord 1 none [1, 2, 3] (hexBytes 21 0x013910b55e8d67a5915d681de397b8040a548a65a7))
        (withContext 0x000102030405060708090a0b0c0d0e0f101112131415161718191a1b1c1d1e1f 0) = .next t ∧
      t.responses = (withContext 0x000102030405060708090a0b0c0d0e0f101112131415161718191a1b1c1d1e1f 0).responses ++
        [{ result := .ok, output := some (hexBytes 5 0x68656c6c6f)
           buffer := some (hexBytes 21 0x68656c6c6f8d67a5915d681de397b8040a548a65a7) }]) ∧
      destinationInDomain (some (hexBytes 5 0)) (hexBytes 21 0x013910b55e8d67a5915d681de397b8040a548a65a7) = true :=
  ⟨exists_next (by decide +kernel), by decide +kernel⟩

/-- Each part: a record to seal, an input of 15 bytes, records of 17 and of 16 bytes to open in place and to a destination, and
a generator below the last counter and at it. -/
theorem witness_CompositeCommandsAreTheirExpansions :
    (Running (withContext 1 2) ∧ (withContext 1 2).ctx.valid = true ∧ ([7] : Bytes).length ≤ Config.maxAad ∧
      ([8] : Bytes).length ≤ Config.maxMsg ∧ (hexBytes 15 0).length < 16 ∧
      (∀ d, (none : Option Bytes) = some d → d.length = [(8 : Byte)].length) ∧
      (∀ d, some [(9 : Byte)] = some d → d.length = [(8 : Byte)].length)) ∧
    (([] : Bytes).length ≤ Config.maxMsg ∧ (([] : Bytes) ++ (hexVec 16 0).toList).length = 16 ∧
      (∀ d, some ([] : Bytes) = some d → d.length = ([] : Bytes).length)) ∧
    (Running (withGenerator 0xfffffffe false) ∧ (withGenerator 0xfffffffe false).ksg.valid = true ∧
      (withGenerator 0xfffffffe false).ksg.ovf = false ∧ (withGenerator 0xfffffffe false).ksg.ctr.toNat < 2 ^ 32 - 1) ∧
    (Running (withGenerator 0xffffffff false) ∧ (withGenerator 0xffffffff false).ksg.valid = true ∧
      (withGenerator 0xffffffff false).ksg.ovf = false ∧ (withGenerator 0xffffffff false).ksg.ctr.toNat = 2 ^ 32 - 1) :=
  ⟨⟨rfl, rfl, by decide +kernel, by decide +kernel, by decide +kernel, by simp, by simp⟩,
    ⟨by decide +kernel, by decide +kernel, by simp⟩, by decide +kernel, by decide +kernel⟩

end Sys2Proof.Tests
end

section
/-! PROOFS. The ChaCha20 core (40_chacha20_core): one rule for what each micro-operation does on a running engine, DROUND
performed again and again, and the bytes of a block as integers. -/

namespace Sys2Proof.Proofs

open Sys2Proof Sys2Proof.Machine Sys2Proof.Safety

/-! ### Operations one after another -/

theorem performAll_nil (s : State) : performAll [] s = .next s := rfl

/-- The rest of a list is performed on the state its first operation leaves (30_encoding R107). -/
theorem performAll_cons_of_next {i : Instr} {s t : State} (h : exec i s = .next t) (is : List Instr) :
    performAll (i :: is) s = performAll is t := by
  simp only [performAll, h]

/-! ### The micro-operations of the core on a running engine -/

theorem exec_dround {s : State} (h : Running s) : exec .dround s = .next (s.deliver s.scratch.dround none) :=
  perform_of_running h rfl _

theorem exec_cc20Init {s : State} (h : Running s) (key : Key) (ctr : Word) (nonce : Nonce) :
    exec (.cc20Init key ctr nonce) s = .next (s.deliver (s.scratch.cc20Init key ctr nonce) none) :=
  perform_of_running h rfl _

theorem exec_cc20Block {s : State} (h : Running s) (key : Key) (ctr : Word) (nonce : Nonce) :
    exec (.cc20Block key ctr nonce) s =
      .next (s.deliver (s.scratch.cc20Block key ctr nonce) (some (.bytes (cc20Block key ctr nonce).toList))) :=
  perform_of_running h rfl _

/-! ### Repeated double rounds (40_chacha20_core R125) -/

theorem doubleRounds_zero (w : Matrix) : doubleRounds 0 w = w := by rw [doubleRounds]

theorem doubleRounds_succ (n : Nat) (w : Matrix) : doubleRounds (n + 1) w = doubleRounds n (doubleRound w) := by
  rw [doubleRounds]

/-- DROUND performed `n` times leaves `n` double rounds of W in W and every other scratch register alone. The state itself
is left open: its bus is the last DROUND's for `1 ≤ n`, and the first state's for `n = 0`. -/
theorem performAll_replicate_dround (n : Nat) (s : State) (h : Running s) :
    ∃ u, performAll (List.replicate n .dround) s = .next u ∧
      u.scratch = { s.scratch with w := doubleRounds n s.scratch.w } := by
  induction n generalizing s with
  | zero => exact ⟨s, performAll_nil s, by rw [doubleRounds_zero]⟩
  | succ n ih =>
    obtain ⟨u, hu, hsc⟩ := ih (s.deliver s.scratch.dround none) h
    refine ⟨u, ?_, ?_⟩
    · rw [List.replicate_succ, performAll_cons_of_next (exec_dround h), hu]
    · rw [hsc, doubleRounds_succ]
      rfl

/-- CC20_INIT and then `n` DROUNDs, performed one by one: W0 is the initial matrix, W its `n` double rounds. -/
theorem performAll_cc20Init_drounds (n : Nat) (key : Key) (ctr : Word) (nonce : Nonce) (s : State) (h : Running s) :
    ∃ u, performAll (.cc20Init key ctr nonce :: List.replicate n .dround) s = .next u ∧
      u.scratch = { s.scratch with
        w := doubleRounds n (initialMatrix key ctr nonce), w0 := initialMatrix key ctr nonce } := by
  rw [performAll_cons_of_next (exec_cc20Init h key ctr nonce)]
  exact performAll_replicate_dround n _ h

/-! ### The bytes of a block (40_chacha20_core R126) -/

/-- Byte `4i + j` of a serialised matrix, as an integer (30_encoding R84). -/
theorem serializeMatrix_getElem_toNat (w : Matrix) (i j : Nat) (hi : i < 16) (hj : j < 4) :
    (serializeMatrix w)[4 * i + j].toNat = w[i].toNat / 2 ^ (8 * j) % 2 ^ 8 := by
  rw [serializeMatrix_getElem w i j hi hj, BitVec.toNat_ofNat, Nat.pow_mul]

/-- Byte `4i + j` of a block is byte `j` of word `i` of the ten double rounds plus word `i` of the initial matrix. -/
theorem cc20Block_getElem_toNat (key : Key) (ctr : Word) (nonce : Nonce) (i j : Nat) (hi : i < 16) (hj : j < 4) :
    (cc20Block key ctr nonce)[4 * i + j].toNat =
      ((doubleRounds 10 (initialMatrix key ctr nonce))[i].toNat + (initialMatrix key ctr nonce)[i].toNat) % 2 ^ 32 /
        2 ^ (8 * j) % 2 ^ 8 := by
  rw [cc20Block, serializeMatrix_getElem_toNat _ i j hi hj, feedForward_getElem, BitVec.toNat_add]

/-- Settles O24: CC20_INIT and DROUND ten times leave the scratch registers CC20_BLOCK leaves, and the block is the
little-endian form of the feed-forward of W and W0. -/
theorem blockIsTenDoubleRoundsFedForward : Obligations.BlockIsTenDoubleRoundsFedForward := by
  intro key ctr nonce s h
  obtain ⟨u, hu, hsc⟩ := performAll_cc20Init_drounds 10 key ctr nonce s h
  refine ⟨_, u, cc20Block key ctr nonce, exec_cc20Block h key ctr nonce, ?delivered, hu, hsc.symm, ?bytes, rfl, rfl⟩
  case delivered => exact ⟨rfl, ⟨rfl, rfl⟩, rfl, rfl, rfl, rfl⟩
  case bytes =>
    intro i j hi hj
    rw [hsc]
    exact cc20Block_getElem_toNat key ctr nonce i j hi hj

end Sys2Proof.Proofs
end

section
/-! PROOFS. The Poly1305 authenticator (42_poly1305): one rule for what each micro-operation does on a running engine, the two
ways of cutting a message into blocks, and the blocks of a message absorbed one by one. -/

namespace Sys2Proof.Proofs

open Sys2Proof Sys2Proof.Machine Sys2Proof.Safety

/-! ### Delivering a value -/

/-- A micro-operation that ends by `State.deliver` has changed nothing but the scratch registers and the bus. -/
theorem delivered_deliver (s : State) (sc : Scratch) (v : Option BusValue) : Delivered s (s.deliver sc v) v :=
  ⟨rfl, ⟨rfl, rfl⟩, rfl, rfl, rfl, rfl⟩

/-- Of two micro-operations in a row, only the second's registers and value are left. -/
@[simp] theorem deliver_deliver (s : State) (sc sc' : Scratch) (v v' : Option BusValue) :
    (s.deliver sc v).deliver sc' v' = s.deliver sc' v' := rfl

/-! ### The micro-operations of the authenticator on a running engine -/

theorem exec_p1305Clamp {s : State} (h : Running s) (otk : Otk) :
    exec (.p1305Clamp otk) s = .next (s.deliver (s.scratch.clamp otk) none) :=
  perform_of_running h rfl _

theorem exec_p1305Block {s : State} (h : Running s) {m : Bytes} (hm : 1 ≤ m.length ∧ m.length ≤ 16) :
    exec (.p1305Block m) s = .next (s.deliver (s.scratch.block m) none) :=
  perform_of_running (i := .p1305Block m) h (decide_eq_true hm) _

theorem exec_p1305Final {s : State} (h : Running s) :
    exec .p1305Final s = .next (s.deliver s.scratch (some (.bytes (polyTag s.scratch.acc s.scratch.s).toList))) :=
  perform_of_running h rfl _

theorem exec_p1305Mac {s : State} (h : Running s) (otk : Otk) (msg : Bytes) :
    exec (.p1305Mac otk msg) s = .next (s.deliver (s.scratch.mac otk msg)
      (some (.bytes (polyTag (s.scratch.mac otk msg).acc (s.scratch.mac otk msg).s).toList))) :=
  perform_of_running h rfl _

/-! ### The blocks of a message (42_poly1305 R163) -/

/-- Reading past the end of a buffer stops at its end. -/
theorem memRead_min (b : Bytes) (off n : Nat) : memRead b off (min n (b.length - off)) = memRead b off n := by
  rw [memRead, memRead, ← List.length_drop, ← List.take_eq_take_min]

/-- The blocks by their places are the pieces the machine cuts off one after another. -/
theorem messageBlocks_eq_blocksOf (msg : Bytes) : messageBlocks msg = blocksOf 16 msg := by
  apply List.ext_getElem
  · simp [messageBlocks, blocksOf, pieces_length]
  · intro i hi _
    have hk : i < (msg.length + 15) / 16 := by simpa [messageBlocks] using hi
    simp only [messageBlocks, blocksOf, List.getElem_map, List.getElem_range, memRead_min]
    exact (pieces_getElem 16 _ msg i hk).symm

/-- Every block of a message is in the domain of P1305_BLOCK. -/
theorem length_of_mem_blocksOf (msg : Bytes) : ∀ m ∈ blocksOf 16 msg, 1 ≤ m.length ∧ m.length ≤ 16 := by
  induction msg using blocks_induction 16 (by decide) with
  | h0 => simp [blocksOf_nil]
  | hs b hb ih =>
    have hpos : 1 ≤ b.length := List.length_pos_iff.mpr hb
    rw [blocksOf_cons 16 (by decide) b hb, List.forall_mem_cons, List.length_take]
    exact ⟨by omega, ih⟩

/-! ### The blocks absorbed one by one (42_poly1305 R166) -/

/-- P1305_BLOCK on one block after another and then P1305_FINAL: the registers after all the blocks, and their tag. -/
theorem performAll_p1305Blocks_final (blocks : List Bytes) (hb : ∀ m ∈ blocks, 1 ≤ m.length ∧ m.length ≤ 16) (s : State)
    (h : Running s) :
    performAll (blocks.map .p1305Block ++ [.p1305Final]) s =
      .next (s.deliver (blocks.foldl Scratch.block s.scratch) (some (.bytes
        (polyTag (blocks.foldl Scratch.block s.scratch).acc (blocks.foldl Scratch.block s.scratch).s).toList))) := by
  induction blocks generalizing s with
  | nil => exact performAll_cons_of_next (exec_p1305Final h) []
  | cons m ms ih =>
    obtain ⟨hm, hms⟩ := List.forall_mem_cons.mp hb
    rw [List.map_cons, List.cons_append, performAll_cons_of_next (exec_p1305Block h hm),
      ih hms (s.deliver (s.scratch.block m) none) h, deliver_deliver, State.deliver_scratch, List.foldl_cons]

/-- P1305_MAC and its micro-operations one by one have the same outcome. -/
theorem performAll_mac_eq_exec (otk : Otk) (msg : Bytes) {s : State} (h : Running s) :
    performAll (.p1305Clamp otk :: ((messageBlocks msg).map .p1305Block ++ [.p1305Final])) s =
      exec (.p1305Mac otk msg) s := by
  rw [performAll_cons_of_next (exec_p1305Clamp h otk), messageBlocks_eq_blocksOf,
    performAll_p1305Blocks_final _ (length_of_mem_blocksOf msg) (s.deliver (s.scratch.clamp otk) none) h,
    exec_p1305Mac h, deliver_deliver, State.deliver_scratch, Scratch.mac]

/-- The tag of a message as an integer: the polynomial of its blocks modulo 2^130 − 5, plus `s`, modulo 2^128. -/
theorem leNat_polyTag_absorbAll (r s : BitVec 128) (msg : Bytes) :
    leNat (polyTag (absorbAll r (blocksOf 16 msg)) s).toList =
      (polySum r.toNat ((messageBlocks msg).map blockValue) % polyPrime + s.toNat) % 2 ^ 128 := by
  rw [leNat_polyTag, absorbAll_toNat, messageBlocks_eq_blocksOf]

/-- Settles O37: P1305_MAC's registers are those the clamp and the blocks leave, and its accumulator is the polynomial of
the blocks. -/
theorem macIsItsMicroOperations : Obligations.MacIsItsMicroOperations := by
  intro otk msg s h
  refine ⟨_, polyTag (s.scratch.mac otk msg).acc (s.scratch.mac otk msg).s, exec_p1305Mac h otk msg,
    delivered_deliver _ _ _, ?oneByOne, ?polynomial, ?frame, rfl⟩
  case oneByOne => rw [performAll_mac_eq_exec otk msg h, exec_p1305Mac h]
  case polynomial =>
    rw [State.deliver_scratch, Scratch.mac_eq]
    exact leNat_polyTag_absorbAll _ _ msg
  case frame => rw [State.deliver_scratch, Scratch.mac_eq]

/-- Settles O35: `absorb` loses nothing in the 130-bit register, and P.acc is the only field the block writes. -/
theorem blockAbsorbed : Obligations.BlockAbsorbed := by
  intro m s h h1 h16
  exact ⟨_, exec_p1305Block h ⟨h1, h16⟩, delivered_deliver _ _ _, absorb_toNat s.scratch.r s.scratch.acc m,
    absorb_lt s.scratch.r s.scratch.acc m, rfl, rfl⟩

/-- Settles O36: P1305_FINAL delivers `polyTag` of the registers and leaves them as they were. -/
theorem finalTag : Obligations.FinalTag := by
  intro s h
  exact ⟨_, polyTag s.scratch.acc s.scratch.s, exec_p1305Final h, delivered_deliver _ _ _,
    leNat_polyTag s.scratch.acc s.scratch.s, rfl, rfl⟩

end Sys2Proof.Proofs
end

section
/-! PROOFS. The AEAD composer (43_aead): one rule for what each of AEAD_OTK, AEAD_MACDATA, AEAD_TAG and TAG_EQ does on a
running engine, the tag as what P1305_MAC makes of the one-time key, and the bits of the accumulated tag difference. -/

namespace Sys2Proof.Proofs

open Sys2Proof Sys2Proof.Machine Sys2Proof.Safety

/-! ### The micro-operations of the composer on a running engine -/

/-- A micro-operation that ends by `State.deliver` leaves a running engine running. -/
theorem running_deliver {s : State} (h : Running s) (sc : Scratch) (v : Option BusValue) : Running (s.deliver sc v) := h

theorem exec_aeadOtk {s : State} (h : Running s) (key : Key) (nonce : Nonce) :
    exec (.aeadOtk key nonce) s =
      .next (s.deliver (s.scratch.deriveOtk key nonce) (some (.bytes (deriveOtk key nonce).toList))) :=
  perform_of_running h rfl _

/-- The domain AEAD_MACDATA and AEAD_TAG share: both lengths within their bounds (43_aead R193). -/
theorem macOperands_inDomain {aad ct : Bytes} (ha : aad.length ≤ Config.maxAad) (hc : ct.length ≤ Config.maxMsg) :
    (aadInDomain aad && decide (ct.length ≤ Config.maxMsg)) = true := by
  rw [aadInDomain, decide_eq_true ha, decide_eq_true hc, Bool.and_self]

theorem exec_aeadMacdata {s : State} (h : Running s) {aad ct : Bytes} (ha : aad.length ≤ Config.maxAad)
    (hc : ct.length ≤ Config.maxMsg) :
    exec (.aeadMacdata aad ct) s = .next (s.deliver s.scratch (some (.bytes (macData aad ct)))) :=
  perform_of_running (i := .aeadMacdata aad ct) h (macOperands_inDomain ha hc) _

theorem exec_aeadTag {s : State} (h : Running s) (key : Key) (nonce : Nonce) {aad ct : Bytes}
    (ha : aad.length ≤ Config.maxAad) (hc : ct.length ≤ Config.maxMsg) :
    exec (.aeadTag key nonce aad ct) s = .next (s.deliver (s.scratch.recordTag key nonce aad ct)
      (some (.bytes (s.scratch.recordTag key nonce aad ct).tag.toList))) :=
  perform_of_running (i := .aeadTag key nonce aad ct) h (macOperands_inDomain ha hc) _

/-- TAG_EQ's verdict, which the machine reads off S.diff, is the equality of the tags. -/
theorem exec_tagEq {s : State} (h : Running s) (a b : Tag) :
    exec (.tagEq a b) s = .next (s.deliver (s.scratch.compareTags a b) (some (.verdict (decide (a = b))))) := by
  have hv : decide (tagDiff a b = 0) = decide (a = b) := decide_eq_decide.mpr tagDiff_eq_zero
  rw [← hv]
  exact perform_of_running h rfl _

/-! ### The one-time key (43_aead R186) -/

/-- Settles O43: S.otk and the value on the bus are `deriveOtk`, the first half of the block CC20_BLOCK makes at counter 0. -/
theorem oneTimeKeyFromBlockZero : Obligations.OneTimeKeyFromBlockZero := by
  intro key nonce s h
  refine ⟨_, _, cc20Block key 0 nonce, exec_aeadOtk h key nonce, exec_cc20Block h key 0 nonce, rfl, ?delivered,
    deriveOtk_toList key nonce, rfl, rfl, rfl, rfl⟩
  case delivered =>
    rw [← deriveOtk_toList]
    exact delivered_deliver _ _ _

/-! ### The tag of a record (43_aead R194) -/

/-- The tag AEAD_TAG leaves is P1305_FINAL's, of the registers that P1305_MAC leaves under the one-time key. -/
theorem recordTag_tag_eq_polyTag (sc : Scratch) (key : Key) (nonce : Nonce) (aad ct : Bytes) :
    (sc.recordTag key nonce aad ct).tag =
      polyTag ((sc.deriveOtk key nonce).mac (deriveOtk key nonce) (macData aad ct)).acc
        ((sc.deriveOtk key nonce).mac (deriveOtk key nonce) (macData aad ct)).s := by
  rw [Scratch.recordTag_tag, recordTag, poly1305Mac, Scratch.mac_eq]

/-- Settles O46: AEAD_OTK, AEAD_MACDATA and P1305_MAC one by one; `recordTag_tag_eq_polyTag` joins the tags and
`Scratch.recordTag_eq` the registers. -/
theorem tagOfRecord : Obligations.TagOfRecord := by
  intro key nonce aad ct s h ha hc
  refine ⟨_, _, _, _, macData aad ct, exec_aeadTag h key nonce ha hc, exec_aeadOtk h key nonce,
    exec_aeadMacdata (running_deliver h _ _) ha hc, rfl, exec_p1305Mac (running_deliver h _ _) _ _, ?delivered, ?tag,
    ?registers, rfl⟩
  case delivered =>
    rw [recordTag_tag_eq_polyTag]
    exact delivered_deliver _ _ _
  case tag =>
    rw [State.deliver_scratch, recordTag_tag_eq_polyTag]
    rfl
  case registers =>
    rw [State.deliver_scratch, Scratch.recordTag_eq]
    rfl

/-! ### The comparison of tags (43_aead R196) -/

/-- A bit of an accumulated OR is set exactly where the start or some byte of the list has it set. -/
theorem getLsbD_foldl_or (l : Bytes) (d : Byte) (k : Nat) :
    (l.foldl (fun diff x => diff ||| x) d).getLsbD k = true ↔ d.getLsbD k = true ∨ ∃ x ∈ l, x.getLsbD k = true := by
  induction l generalizing d with
  | nil => simp
  | cons x xs ih =>
    rw [List.foldl_cons, ih, BitVec.getLsbD_or, Bool.or_eq_true, List.exists_mem_cons_iff, or_assoc]

/-- The byte differences the comparison visits are those at the sixteen places of the tags. -/
theorem mem_xorBytes_toList {a b : Tag} {x : Byte} :
    x ∈ xorBytes a.toList b.toList ↔ ∃ i, ∃ h : i < 16, a[i] ^^^ b[i] = x := by
  simp [xorBytes, List.mem_iff_getElem]

/-- A bit of S.diff is set exactly where the tags differ in that bit of some byte. -/
theorem getLsbD_tagDiff (a b : Tag) (k : Nat) :
    (tagDiff a b).getLsbD k = true ↔ ∃ i, ∃ h : i < 16, (a[i] ^^^ b[i]).getLsbD k = true := by
  rw [tagDiff, getLsbD_foldl_or]
  constructor
  · rintro (h0 | ⟨x, hx, hk⟩)
    · simp at h0
    · obtain ⟨i, hi, rfl⟩ := mem_xorBytes_toList.mp hx
      exact ⟨i, hi, hk⟩
  · rintro ⟨i, hi, hk⟩
    exact .inr ⟨_, mem_xorBytes_toList.mpr ⟨i, hi, rfl⟩, hk⟩

/-- Settles O47: the verdict by `exec_tagEq`, the bits of S.diff by `getLsbD_tagDiff`. -/
theorem tagComparison : Obligations.TagComparison := by
  intro a b s h
  exact ⟨_, exec_tagEq h a b, delivered_deliver _ _ _, fun k _ => getLsbD_tagDiff a b k, rfl, rfl⟩

end Sys2Proof.Proofs
end

section
/-! PROOFS. OPEN and the length of its input (43_aead R203, R207): what a short input gets, and all that any other input can
get. -/

namespace Sys2Proof.Proofs

open Sys2Proof Sys2Proof.Machine Sys2Proof.Safety

/-! ### OPEN on a running engine with a constructed context -/

/-- A short input is answered before any cryptographic work, and OPEN's buffer is as it was (43_aead R207). -/
theorem exec_openRecord_of_short {seq : BitVec 64} {dst : Option Bytes} {aad ctt : Bytes} {s : State} (h : Running s)
    (hv : s.ctx.valid = true) (hw : (Instr.openRecord seq dst aad ctt).wellFormed = true) (short : ctt.length < 16) :
    exec (.openRecord seq dst aad ctt) s =
      .next (s.reply { result := .malformedInput, output := none, buffer := some (openBuffer dst ctt) }) := by
  rw [exec, execOpenRecord, perform_of_running h hw, needContext_of_valid hv, dif_pos short, State.enter_reply]

/-- The masking of a message within MAX_MSG, from counter 1 on, does not fault (43_aead R199). -/
theorem ksXor_ne_none_of_within_maxMsg {sc : Scratch} {key : Key} {nonce : Nonce} {data : Bytes}
    (h : data.length ≤ Config.maxMsg) : sc.ksXor key nonce 1 data ≠ none := by
  obtain ⟨sc', hsome, -⟩ := ksXor_within_maxMsg (sc := sc) (key := key) (nonce := nonce) h
  rw [hsome]
  nofun

/-- An input that is not short faults where its ciphertext is longer than MAX_MSG, and is otherwise answered with another
result than MalformedInput: OK or AuthenticationFailure (43_aead R203). -/
theorem exec_openRecord_of_not_short {seq : BitVec 64} {dst : Option Bytes} {aad ctt : Bytes} {s : State}
    (h : Running s) (hv : s.ctx.valid = true) (hw : (Instr.openRecord seq dst aad ctt).wellFormed = true)
    (long : ¬ ctt.length < 16) :
    (Config.maxMsg < (ciphertextOf ctt).length ∧ exec (.openRecord seq dst aad ctt) s = .next s.takeCounterOverflow) ∨
      ∃ r, (r.result = .ok ∨ r.result = .authenticationFailure) ∧
        exec (.openRecord seq dst aad ctt) s = .next (s.reply r) := by
  rw [exec, execOpenRecord, perform_of_running h hw, needContext_of_valid hv, dif_neg long]
  simp only [State.enter_reply, State.withScratch_reply, State.enter_takeCounterOverflow]
  split
  case isTrue overlong => exact .inl ⟨overlong, rfl⟩
  case isFalse within =>
    split
    case isTrue tagRight =>
      split
      case h_1 faulted => exact absurd faulted (ksXor_ne_none_of_within_maxMsg (Nat.le_of_not_lt within))
      case h_2 => exact .inr ⟨_, .inl rfl, rfl⟩
    case isFalse tagWrong => exact .inr ⟨_, .inr rfl, rfl⟩

/-! ### MalformedInput (60_exceptions R223) -/

/-- Settles O51: a short input by `exec_openRecord_of_short`; of any other, `exec_openRecord_of_not_short` leaves a fault,
which appends no response, or a response with another result. -/
theorem malformedInputExactlyWhenShort : Obligations.MalformedInputExactlyWhenShort := by
  intro seq dst aad ctt s h hv hw
  by_cases short : ctt.length < 16
  · exact ⟨_, exec_openRecord_of_short h hv hw short, fun _ => ⟨⟨rfl, rfl, rfl, rfl, rfl⟩, rfl, rfl⟩, fun _ _ _ => short⟩
  · obtain ⟨-, hfault⟩ | ⟨r, hresult, hreply⟩ := exec_openRecord_of_not_short h hv hw short
    · refine ⟨_, hfault, fun hs => absurd hs short, fun r appended _ => ?_⟩
      simp at appended
    · refine ⟨_, hreply, fun hs => absurd hs short, fun r' appended hm => ?_⟩
      obtain rfl : r = r' := by simpa using appended
      simp [hm] at hresult

end Sys2Proof.Proofs
end

section
/-! PROOFS. From a packet to an operation and back (30_encoding section 2), and the step that performs what was
decoded. -/

namespace Sys2Proof.Proofs

open Sys2Proof Sys2Proof.Machine Sys2Proof.Safety

/-! ### Decoding and encoding -/

/-- Settles O1: an operation's packet has a code of its port (`encode_code`) and operands its port's reader reads back
(`operationOf_encode`). -/
theorem decodeOfEncodeIsInstruction : Obligations.DecodeOfEncodeIsInstruction := by
  intro i hw
  exact decode_eq_ok.mpr ⟨encode_code i, operationOf_encode i, hw⟩

/-- The packet of the operation is this code with these operands, and it is presented at this port. -/
abbrev EncodesTo (i : Instr) (port : Port) (code : Byte) (operands : List Operand) : Prop :=
  i.port = port ∧ encode i = ⟨code, operands⟩

theorem code_eq_ofNat {code : Byte} {n : Nat} (h : code.toNat = n) : code = BitVec.ofNat 8 n := by
  rw [← h, BitVec.ofNat_toNat, BitVec.setWidth_eq]

/-- What one fixed-length operand is read from. -/
theorem map_vec?_eq_some {m : Nat} {a : Bytes} {f : Vector Byte m → Instr} {i : Instr} :
    (vec? m a).map f = some i ↔ ∃ x, a = x.toList ∧ f x = i := by
  simp only [Option.map_eq_some_iff, vec?_eq_some]

/-- What two fixed-length operands are read from. -/
theorem bind_vec?_eq_some {m n : Nat} {a b : Bytes} {f : Vector Byte m → Vector Byte n → Instr} {i : Instr} :
    ((vec? m a).bind fun x => (vec? n b).map fun y => f x y) = some i ↔
      ∃ x y, a = x.toList ∧ b = y.toList ∧ f x y = i := by
  simp only [Option.bind_eq_some_iff, vec?_eq_some, map_vec?_eq_some, exists_and_left]

/-- The command read from a code and operands is encoded by just these. -/
theorem encodesTo_of_commandOf {code : Byte} {operands : List Operand} {i : Instr}
    (h : commandOf code operands = some i) : EncodesTo i .host code operands := by
  unfold commandOf at h
  split at h
  case h_8 => cases h
  all_goals
    rename_i hcode
    obtain rfl := code_eq_ofNat hcode
    split at h <;> cases h
    exact ⟨rfl, rfl⟩

/-- The micro-operation read from a label and operands is encoded by just these. -/
theorem encodesTo_of_microOperationOf {label : Byte} {operands : List Operand} {i : Instr}
    (h : microOperationOf label operands = some i) : EncodesTo i .sequencer label operands := by
  unfold microOperationOf at h
  split at h
  case h_15 => cases h
  all_goals
    rename_i hlabel
    obtain rfl := code_eq_ofNat hlabel
  case h_1 | h_2 | h_7 | h_8 | h_12 =>
    split at h <;> cases h
    exact ⟨rfl, rfl⟩
  case h_6 | h_9 | h_10 =>
    split at h
    case h_2 => cases h
    obtain ⟨x, rfl, rfl⟩ := map_vec?_eq_some.mp h
    exact ⟨rfl, rfl⟩
  case h_3 | h_4 | h_5 | h_11 | h_13 | h_14 =>
    split at h
    case h_2 => cases h
    obtain ⟨x, y, rfl, rfl, rfl⟩ := bind_vec?_eq_some.mp h
    exact ⟨rfl, rfl⟩

/-- Settles O2: what a port's decoder accepts is what its shape reader reads, which is encoded by what it was read
from. -/
theorem acceptedPacketIsItsEncoding : Obligations.AcceptedPacketIsItsEncoding := by
  intro port p i h
  obtain ⟨-, hread, hw⟩ := decode_eq_ok.mp h
  have he : EncodesTo i port p.code p.operands := by
    cases port with
    | host => exact encodesTo_of_commandOf hread
    | sequencer => exact encodesTo_of_microOperationOf hread
  exact ⟨hw, he⟩

/-- The host port's decoder refuses 0x00 and every code from 0x08 on, and tells those with bit 7 set from the others. -/
theorem decode_host_of_not_command {p : Packet} (h : p.code = 0 ∨ 8 ≤ p.code.toNat) :
    decode .host p = .error (if p.code.msb then .notHostIssuable p.code else .unassignedCode p.code) := by
  have hc : isCommandCode p.code = false := by
    rw [isCommandCode, decide_eq_false_iff_not]
    rcases h with h | h
    · simp [h]
    · omega
  rw [decode, decodeCommand, hc, if_neg Bool.false_ne_true, apply_ite Except.error]

/-- Settles O4: the table words are read by evaluation. -/
theorem tableWordsDecodeToTheirOperations : Obligations.TableWordsDecodeToTheirOperations := by
  unfold Obligations.TableWordsDecodeToTheirOperations
  decide

/-- What a table word that stands for an operation says about its packet. -/
theorem decode_of_decodeTableWord {nbits w : Nat} {i : Instr} (h : decodeTableWord nbits w = some i) :
    8 ≤ nbits ∧ decode (portOfCode (BitVec.ofNat 8 w)) (packetOfTableWord w) = .ok i := by
  unfold decodeTableWord at h
  split at h
  case isFalse => cases h
  case isTrue hn =>
    split at h
    case h_2 => cases h
    case h_1 j hj =>
      cases h
      exact ⟨hn.1, hj⟩

/-! ### The step -/

theorem step_of_nil {s : State} (hp : s.pending = []) (h : Running s) : step s = .next s := by
  simp [step, hp, h]

theorem step_of_reset {s : State} {rest : List Event} (hp : s.pending = .reset :: rest) :
    step s = .next (s.takeReset rest) := by
  simp [step, hp]

theorem step_of_ok {s : State} {port : Port} {p : Packet} {rest : List Event} {i : Instr}
    (hp : s.pending = .present port p :: rest) (h : Running s) (hd : decode port p = .ok i) :
    step s = exec i { s with pending := rest } := by
  simp [step, hp, h, hd]

theorem step_of_error {s : State} {port : Port} {p : Packet} {rest : List Event} {e : DecodeError}
    (hp : s.pending = .present port p :: rest) (h : Running s) (hd : decode port p = .error e) :
    step s = .refused (.undecodable e) := by
  simp [step, hp, h, hd]

/-- Everything a step that leads on can do: it takes a reset, it is idle, or it performs one operation. -/
theorem step_next_cases {s t : State} (e : step s = .next t) :
    (∃ rest, s.pending = .reset :: rest ∧ t = s.takeReset rest) ∨
    (Running s ∧ t = s) ∨
    (Running s ∧ ∃ i rest, exec i { s with pending := rest } = .next t) := by
  unfold step at e
  split at e
  case h_1 rest hp =>
    cases e
    exact .inl ⟨rest, hp, rfl⟩
  case h_2 =>
    split at e <;> cases e
    exact .inr (.inl ⟨‹_›, rfl⟩)
  case h_3 port p rest _ =>
    split at e
    case isFalse => cases e
    case isTrue h =>
      split at e
      case h_1 i _ => exact .inr (.inr ⟨h, i, rest, e⟩)
      case h_2 => cases e

/-- Settles O3: the decoder's error is the step's refusal. -/
theorem hostPortRefusesOtherCodes : Obligations.HostPortRefusesOtherCodes := by
  intro s p rest hp h hc
  exact step_of_error hp h (decode_host_of_not_command hc)

/-- Settles O5: the two cases of a step on a running engine that is not refused. -/
theorem stepPerformsDecodedOperation : Obligations.StepPerformsDecodedOperation :=
  ⟨fun _ _ _ _ _ hp h hd => step_of_ok hp h hd, fun _ hp h => step_of_nil hp h⟩

/-- Settles O6: the word's packet stands first in the queue, and taking it gives back the state it was placed in. -/
theorem placedTableWordIsPerformedNext : Obligations.PlacedTableWordIsPerformedNext := by
  intro s nbits w i hword h
  obtain ⟨hn, hd⟩ := decode_of_decodeTableWord hword
  rw [State.withFetchWord, if_pos hn]
  exact step_of_ok rfl h hd

/-- Settles O7: the step takes the reset, and `State.takeReset` puts both slots at their reset values. -/
theorem resetRestoresEveryState : Obligations.ResetRestoresEveryState := by
  intro s rest hp
  refine ⟨_, step_of_reset hp, rfl, rfl, rfl, rfl, ?keys, ?nonces, rfl, rfl, rfl, rfl⟩
  case keys => simp [CtxSlot.reset, KsgSlot.reset]
  case nonces => simp [CtxSlot.reset, KsgSlot.reset]

/-- Settles O8: the fields of `State.reset`. -/
theorem resetValues : Obligations.ResetValues := by
  refine ⟨rfl, rfl, ?keys, ?nonces, rfl, rfl, rfl, rfl⟩
  case keys => simp [State.reset, CtxSlot.reset, KsgSlot.reset]
  case nonces => simp [State.reset, CtxSlot.reset, KsgSlot.reset]

end Sys2Proof.Proofs
end

section
/-! PROOFS. The commands of the host on a running engine (41_keystream_generator, 43_aead): one rule for each, with the
response and the slots it leaves written as functions of the slots it finds. -/

namespace Sys2Proof.Proofs

open Sys2Proof Sys2Proof.Machine Sys2Proof.Safety

/-- The state with other slots. -/
def withSlots (s : State) (c : CtxSlot) (k : KsgSlot) : State := { s with ctx := c, ksg := k }

/-- A command that ends by `State.reply` has returned that response and no other, whatever it did to the slots. -/
theorem replied_reply_withSlots (s : State) (c : CtxSlot) (k : KsgSlot) (r : Response) :
    Replied s ((withSlots s c k).reply r) r :=
  ⟨rfl, rfl, rfl, rfl, rfl⟩

theorem replied_reply (s : State) (r : Response) : Replied s (s.reply r) r :=
  replied_reply_withSlots s s.ctx s.ksg r

/-- The fault CounterOverflow, taken, is what `Overflowed` says. -/
theorem overflowed_takeCounterOverflow (s : State) : Overflowed s s.takeCounterOverflow :=
  ⟨rfl, rfl, rfl, ⟨rfl, rfl⟩, rfl, rfl⟩

theorem not_running_takeCounterOverflow (s : State) : ¬ Running s.takeCounterOverflow := nofun

/-- A response without output or buffer (60_exceptions R229). -/
abbrev codeOnly (r : Result) : Response := { result := r, output := none, buffer := none }

/-! ### The constructors and the destructors -/

/-- The three cases of a constructor's length checks, in their order (60_exceptions R228). -/
theorem constructor_lengths_cases (key nonce : Bytes) :
    key.length ≠ 32 ∨ (∃ ky : Key, key = ky.toList ∧ nonce.length ≠ 12) ∨
      ∃ (ky : Key) (n : Nonce), key = ky.toList ∧ nonce = n.toList := by
  by_cases hk : key.length = 32
  · obtain ⟨ky, -, rfl⟩ := exists_vec?_of_length hk
    by_cases hn : nonce.length = 12
    · obtain ⟨n, -, rfl⟩ := exists_vec?_of_length hn
      exact .inr (.inr ⟨ky, n, rfl, rfl⟩)
    · exact .inr (.inl ⟨ky, rfl, hn⟩)
  · exact .inl hk

section
variable {s : State} (h : Running s)
include h

theorem exec_ksgInit_of_bad_key {key : Bytes} (hk : key.length ≠ 32) (nonce : Bytes) (ctr0 : Word) :
    exec (.ksgInit key nonce ctr0) s = .next (s.reply (codeOnly .invalidKeyLength)) :=
  (perform_of_running h rfl _).trans (checkLengths_bad_key hk _ _)

theorem exec_ksgInit_of_bad_nonce (ky : Key) {nonce : Bytes} (hn : nonce.length ≠ 12) (ctr0 : Word) :
    exec (.ksgInit ky.toList nonce ctr0) s = .next (s.reply (codeOnly .invalidNonceLength)) :=
  (perform_of_running h rfl _).trans (checkLengths_bad_nonce ky hn _ _)

theorem exec_ksgInit_toList (ky : Key) (n : Nonce) (ctr0 : Word) :
    exec (.ksgInit ky.toList n.toList ctr0) s =
      .next ((withSlots s s.ctx { valid := true, key := ky, nonce := n, ctr := ctr0, ovf := false }).reply
        (codeOnly .ok)) :=
  (perform_of_running h rfl _).trans (checkLengths_toList ky n _ _)

theorem exec_ctxInit_of_bad_key {key : Bytes} (hk : key.length ≠ 32) (pre : Bytes) :
    exec (.ctxInit key pre) s = .next (s.reply (codeOnly .invalidKeyLength)) :=
  (perform_of_running h rfl _).trans (checkLengths_bad_key hk _ _)

theorem exec_ctxInit_of_bad_prefix (ky : Key) {pre : Bytes} (hp : pre.length ≠ 12) :
    exec (.ctxInit ky.toList pre) s = .next (s.reply (codeOnly .invalidNonceLength)) :=
  (perform_of_running h rfl _).trans (checkLengths_bad_nonce ky hp _ _)

theorem exec_ctxInit_toList (ky : Key) (p : Nonce) :
    exec (.ctxInit ky.toList p.toList) s =
      .next ((withSlots s { valid := true, key := ky, pre := p } s.ksg).reply (codeOnly .ok)) :=
  (perform_of_running h rfl _).trans (checkLengths_toList ky p _ _)

end

theorem exec_ctxDestroy {s : State} (h : Running s) (hv : s.ctx.valid = true) :
    exec .ctxDestroy s = .next ((withSlots s CtxSlot.reset s.ksg).reply (codeOnly .ok)) := by
  rw [exec, execCtxDestroy, perform_of_running h rfl, needContext_of_valid hv]
  rfl

theorem exec_ksgDestroy {s : State} (h : Running s) (hv : s.ksg.valid = true) :
    exec .ksgDestroy s = .next ((withSlots s s.ctx KsgSlot.reset).reply (codeOnly .ok)) := by
  rw [exec, execKsgDestroy, perform_of_running h rfl, needGenerator_of_valid hv]
  rfl

/-! ### KSG_NEXT -/

/-- The generator slot after a block (41_keystream_generator R143, R146). -/
def nextGenerator (k : KsgSlot) : KsgSlot := { k with ctr := advanceCtr k.ctr, ovf := advanceOvf k.ctr k.ovf }

/-- What KSG_NEXT returns: the block of the counter it finds (41_keystream_generator R143). -/
def blockResponse (k : KsgSlot) : Response :=
  { result := .ok, output := some (cc20Block k.key k.ctr k.nonce).toList, buffer := none }

theorem exec_ksgNext_of_ovf {s : State} (h : Running s) (hv : s.ksg.valid = true) (ho : s.ksg.ovf = true) :
    exec .ksgNext s = .next s.takeCounterOverflow := by
  rw [exec, execKsgNext, perform_of_running h rfl, needGenerator_of_valid hv, if_pos ho]

theorem exec_ksgNext_of_not_ovf {s : State} (h : Running s) (hv : s.ksg.valid = true) (ho : s.ksg.ovf = false) :
    exec .ksgNext s = .next ((withSlots s s.ctx (nextGenerator s.ksg)).reply (blockResponse s.ksg)) := by
  rw [exec, execKsgNext, perform_of_running h rfl, needGenerator_of_valid hv, if_neg (by simp [ho])]
  rfl

/-! ### SEAL and OPEN -/

/-- What the masking of a message within MAX_MSG gives, from counter 1 on (43_aead R199). -/
theorem ksXor_within_maxMsg_eq_some {sc sc' : Scratch} {key : Key} {nonce : Nonce} {data out : Bytes}
    (h : data.length ≤ Config.maxMsg) (e : sc.ksXor key nonce 1 data = some (out, sc')) :
    out = keystreamMask key nonce 1 data ∧ sc'.nonce = sc.nonce := by
  obtain ⟨sc'', hmask, hnonce⟩ := ksXor_within_maxMsg (sc := sc) (key := key) (nonce := nonce) h
  rw [hmask] at e
  cases e
  exact ⟨rfl, hnonce⟩

/-- What SEAL returns for a plaintext within MAX_MSG: the masked plaintext and its tag (43_aead R200). -/
def sealResponse (c : CtxSlot) (seq : BitVec 64) (aad pt : Bytes) : Response :=
  let nonce := deriveNonce c.pre seq
  let ct := keystreamMask c.key nonce 1 pt
  { result := .ok, output := some (ct ++ (recordTag c.key nonce aad ct).toList), buffer := none }

/-- SEAL is a function of the context and its operands, whatever the scratch registers hold (43_aead R199, R200). -/
theorem exec_sealRecord_eq (seq : BitVec 64) (aad pt : Bytes) (s : State) :
    exec (.sealRecord seq aad pt) s = perform (.sealRecord seq aad pt) s (needContext s
      (if Config.maxMsg < pt.length then .next s.takeCounterOverflow
      else .next (s.reply (sealResponse s.ctx seq aad pt)))) := by
  rw [exec, execSealRecord]
  congr 2
  split
  case isTrue => rfl
  case isFalse within =>
    dsimp only
    split
    case h_1 faulted => exact absurd faulted (ksXor_ne_none_of_within_maxMsg (Nat.le_of_not_lt within))
    case h_2 ct sc masked =>
      obtain ⟨rfl, hnonce⟩ := ksXor_within_maxMsg_eq_some (Nat.le_of_not_lt within) masked
      simp only [State.withScratch_scratch, State.enter_reply, State.withScratch_reply, Scratch.recordTag_tag, hnonce]
      rfl

/-- What OPEN returns for a ciphertext within MAX_MSG (43_aead R203 to R207). -/
def openResponse (c : CtxSlot) (seq : BitVec 64) (dst : Option Bytes) (aad ctt : Bytes) : Response :=
  let nonce := deriveNonce c.pre seq
  let ct := ciphertextOf ctt
  let pt := keystreamMask c.key nonce 1 ct
  if ctt.length < 16 then
    { result := .malformedInput, output := none, buffer := some (openBuffer dst ctt) }
  else if ctt.drop (ctt.length - 16) = (recordTag c.key nonce aad ct).toList then
    { result := .ok, output := some pt, buffer := some (memWrite (openBuffer dst ctt) 0 pt) }
  else
    { result := .authenticationFailure, output := none, buffer := some (failedBuffer Config.openFailDst dst ctt) }

theorem openResponse_of_short {ctt : Bytes} (h : ctt.length < 16) (c : CtxSlot) (seq : BitVec 64) (dst : Option Bytes)
    (aad : Bytes) : openResponse c seq dst aad ctt =
      { result := .malformedInput, output := none, buffer := some (openBuffer dst ctt) } :=
  if_pos h

/-- The right tag, as the machine compares it, is the last 16 bytes of the input (43_aead R203). -/
theorem receivedTag_eq_iff {ctt : Bytes} (h : 16 ≤ ctt.length) (tag : Tag) :
    tag = receivedTag ctt h ↔ ctt.drop (ctt.length - 16) = tag.toList := by
  rw [← receivedTag_toList ctt h, Vector.toList_inj, eq_comm]

section
variable {c : CtxSlot} {seq : BitVec 64} {dst : Option Bytes} {aad ctt : Bytes} (h : ¬ ctt.length < 16)
include h

theorem openResponse_of_tag_right (ht : ctt.drop (ctt.length - 16) =
      (recordTag c.key (deriveNonce c.pre seq) aad (ciphertextOf ctt)).toList) :
    openResponse c seq dst aad ctt =
      { result := .ok, output := some (keystreamMask c.key (deriveNonce c.pre seq) 1 (ciphertextOf ctt))
        buffer := some (memWrite (openBuffer dst ctt) 0
          (keystreamMask c.key (deriveNonce c.pre seq) 1 (ciphertextOf ctt))) } :=
  (if_neg h).trans (if_pos ht)

theorem openResponse_of_tag_wrong (ht : ctt.drop (ctt.length - 16) ≠
      (recordTag c.key (deriveNonce c.pre seq) aad (ciphertextOf ctt)).toList) :
    openResponse c seq dst aad ctt =
      { result := .authenticationFailure, output := none
        buffer := some (failedBuffer Config.openFailDst dst ctt) } :=
  (if_neg h).trans (if_neg ht)

end

/-- OPEN is a function of the context and its operands, whatever the scratch registers hold (43_aead R199, R203). -/
theorem exec_openRecord_eq (seq : BitVec 64) (dst : Option Bytes) (aad ctt : Bytes) (s : State) :
    exec (.openRecord seq dst aad ctt) s = perform (.openRecord seq dst aad ctt) s (needContext s
      (if Config.maxMsg < ctt.length - 16 then .next s.takeCounterOverflow
      else .next (s.reply (openResponse s.ctx seq dst aad ctt)))) := by
  rw [exec, execOpenRecord]
  congr 2
  split
  case isTrue short =>
    rw [if_neg (by omega), openResponse_of_short short, State.enter_reply]
  case isFalse long =>
    simp only [ciphertextOf_length]
    split
    case isTrue => rfl
    case isFalse within =>
      have hct : (ciphertextOf ctt).length ≤ Config.maxMsg := by rw [ciphertextOf_length]; omega
      simp only [State.withScratch_scratch, State.enter_scratch, State.withScratch_ctx, State.enter_ctx,
        State.enter_reply, State.withScratch_reply, Scratch.compareTags_diff, Scratch.compareTags_nonce,
        Scratch.recordTag_tag, Scratch.recordTag_nonce, tagDiff_eq_zero, receivedTag_eq_iff]
      split
      case isTrue tagRight =>
        rw [openResponse_of_tag_right long tagRight]
        split
        case h_1 faulted => exact absurd faulted (ksXor_ne_none_of_within_maxMsg hct)
        case h_2 masked =>
          obtain ⟨rfl, -⟩ := ksXor_within_maxMsg_eq_some hct masked
          rfl
      case isFalse tagWrong => rw [openResponse_of_tag_wrong long tagWrong]

section
variable {s : State} (h : Running s) (hv : s.ctx.valid = true) {seq : BitVec 64} {dst : Option Bytes}
  {aad pt ctt : Bytes}
include h hv

theorem exec_sealRecord_of_overlong (hw : (Instr.sealRecord seq aad pt).wellFormed = true)
    (overlong : Config.maxMsg < pt.length) : exec (.sealRecord seq aad pt) s = .next s.takeCounterOverflow := by
  rw [exec_sealRecord_eq, perform_of_running h hw, needContext_of_valid hv, if_pos overlong]

theorem exec_sealRecord_of_within (hw : (Instr.sealRecord seq aad pt).wellFormed = true)
    (within : pt.length ≤ Config.maxMsg) :
    exec (.sealRecord seq aad pt) s = .next (s.reply (sealResponse s.ctx seq aad pt)) := by
  rw [exec_sealRecord_eq, perform_of_running h hw, needContext_of_valid hv, if_neg (Nat.not_lt.mpr within)]

theorem exec_openRecord_of_overlong (hw : (Instr.openRecord seq dst aad ctt).wellFormed = true)
    (overlong : Config.maxMsg < ctt.length - 16) :
    exec (.openRecord seq dst aad ctt) s = .next s.takeCounterOverflow := by
  rw [exec_openRecord_eq, perform_of_running h hw, needContext_of_valid hv, if_pos overlong]

theorem exec_openRecord_of_within (hw : (Instr.openRecord seq dst aad ctt).wellFormed = true)
    (within : ctt.length - 16 ≤ Config.maxMsg) :
    exec (.openRecord seq dst aad ctt) s = .next (s.reply (openResponse s.ctx seq dst aad ctt)) := by
  rw [exec_openRecord_eq, perform_of_running h hw, needContext_of_valid hv, if_neg (Nat.not_lt.mpr within)]

end

/-- Everything a SEAL that leads on can do (43_aead R199, R200). -/
theorem exec_sealRecord_next_cases {s t : State} {seq : BitVec 64} {aad pt : Bytes}
    (e : exec (.sealRecord seq aad pt) s = .next t) :
    Running s ∧ (Instr.sealRecord seq aad pt).wellFormed = true ∧ s.ctx.valid = true ∧
      ((Config.maxMsg < pt.length ∧ t = s.takeCounterOverflow) ∨
        (pt.length ≤ Config.maxMsg ∧ t = s.reply (sealResponse s.ctx seq aad pt))) := by
  obtain ⟨h, hw, e'⟩ := perform_next.mp e
  obtain ⟨hv, -⟩ := needContext_next.mp e'
  refine ⟨h, hw, hv, ?_⟩
  rcases Nat.lt_or_ge Config.maxMsg pt.length with overlong | within
  · cases e.symm.trans (exec_sealRecord_of_overlong h hv hw overlong)
    exact .inl ⟨overlong, rfl⟩
  · cases e.symm.trans (exec_sealRecord_of_within h hv hw within)
    exact .inr ⟨within, rfl⟩

/-- Everything an OPEN that leads on can do (43_aead R199, R203). -/
theorem exec_openRecord_next_cases {s t : State} {seq : BitVec 64} {dst : Option Bytes} {aad ctt : Bytes}
    (e : exec (.openRecord seq dst aad ctt) s = .next t) :
    Running s ∧ (Instr.openRecord seq dst aad ctt).wellFormed = true ∧ s.ctx.valid = true ∧
      ((Config.maxMsg < ctt.length - 16 ∧ t = s.takeCounterOverflow) ∨
        (ctt.length - 16 ≤ Config.maxMsg ∧ t = s.reply (openResponse s.ctx seq dst aad ctt))) := by
  obtain ⟨h, hw, e'⟩ := perform_next.mp e
  obtain ⟨hv, -⟩ := needContext_next.mp e'
  refine ⟨h, hw, hv, ?_⟩
  rcases Nat.lt_or_ge Config.maxMsg (ctt.length - 16) with overlong | within
  · cases e.symm.trans (exec_openRecord_of_overlong h hv hw overlong)
    exact .inl ⟨overlong, rfl⟩
  · cases e.symm.trans (exec_openRecord_of_within h hv hw within)
    exact .inr ⟨within, rfl⟩

/-- A KSG_NEXT that leads on found a constructed generator, and took the fault or returned a block. -/
theorem exec_ksgNext_next_cases {s t : State} (e : exec .ksgNext s = .next t) :
    Running s ∧ s.ksg.valid = true ∧
      ((s.ksg.ovf = true ∧ t = s.takeCounterOverflow) ∨
        (s.ksg.ovf = false ∧ t = (withSlots s s.ctx (nextGenerator s.ksg)).reply (blockResponse s.ksg))) := by
  obtain ⟨h, -, e'⟩ := perform_next.mp e
  obtain ⟨hv, -⟩ := needGenerator_next.mp e'
  refine ⟨h, hv, ?_⟩
  cases ho : s.ksg.ovf with
  | true =>
    cases e.symm.trans (exec_ksgNext_of_ovf h hv ho)
    exact .inl ⟨rfl, rfl⟩
  | false =>
    cases e.symm.trans (exec_ksgNext_of_not_ovf h hv ho)
    exact .inr ⟨rfl, rfl⟩

theorem exec_ctxDestroy_next {s t : State} (e : exec .ctxDestroy s = .next t) :
    Running s ∧ s.ctx.valid = true ∧ t = (withSlots s CtxSlot.reset s.ksg).reply (codeOnly .ok) := by
  obtain ⟨h, -, e'⟩ := perform_next.mp e
  obtain ⟨hv, -⟩ := needContext_next.mp e'
  cases e.symm.trans (exec_ctxDestroy h hv)
  exact ⟨h, hv, rfl⟩

theorem exec_ksgDestroy_next {s t : State} (e : exec .ksgDestroy s = .next t) :
    Running s ∧ s.ksg.valid = true ∧ t = (withSlots s s.ctx KsgSlot.reset).reply (codeOnly .ok) := by
  obtain ⟨h, -, e'⟩ := perform_next.mp e
  obtain ⟨hv, -⟩ := needGenerator_next.mp e'
  cases e.symm.trans (exec_ksgDestroy h hv)
  exact ⟨h, hv, rfl⟩

end Sys2Proof.Proofs
end

section
/-! PROOFS. What an operation can do, said once (`exec_next_cases`), and the rules of the whole machine that follow: the
invariants between commands, the fault and the way back from it, the responses (10_state section 9, 60_exceptions). -/

namespace Sys2Proof.Proofs

open Sys2Proof Sys2Proof.Machine Sys2Proof.Safety

/-! ### When an operation is performed at all -/

theorem exec_of_halted {s : State} (h : ¬ Running s) (i : Instr) : exec i s = .fault .halted := by
  cases i <;> exact perform_of_halted h _

theorem exec_outside_domain {s : State} (h : Running s) {i : Instr} (hw : i.wellFormed = false) :
    exec i s = .refused .operandOutsideDomain := by
  cases i <;> exact perform_outside_domain h hw _

/-- An operation that leads on was presented to a running engine, with operands in their domains. -/
theorem running_of_exec_next {i : Instr} {s t : State} (e : exec i s = .next t) : Running s ∧ i.wellFormed = true := by
  by_cases h : Running s
  · refine ⟨h, ?_⟩
    cases hw : i.wellFormed with
    | true => rfl
    | false =>
      rw [exec_outside_domain h hw] at e
      cases e
  · rw [exec_of_halted h] at e
    cases e

/-- Settles O11: `perform` begins every operation. -/
theorem haltedEnginePerformsNothing : Obligations.HaltedEnginePerformsNothing := fun i _ h => exec_of_halted h i

/-- Settles O14: `perform` begins every operation. -/
theorem operandOutsideDomainRefused : Obligations.OperandOutsideDomainRefused :=
  fun _ _ h hw => exec_outside_domain h hw

/-- Settles O15: each of the five commands begins with `needContext` or `needGenerator`. -/
theorem unconstructedSlotRefused : Obligations.UnconstructedSlotRefused := by
  intro s h
  refine ⟨fun hc => ⟨?ctxDestroy, ?sealRecord, ?openRecord⟩, fun hk => ⟨?ksgNext, ?ksgDestroy⟩⟩
  case ctxDestroy => exact (perform_of_running h rfl _).trans (needContext_of_invalid hc _)
  case sealRecord => exact fun _ _ _ hw => (perform_of_running h hw _).trans (needContext_of_invalid hc _)
  case openRecord => exact fun _ _ _ _ hw => (perform_of_running h hw _).trans (needContext_of_invalid hc _)
  case ksgNext => exact (perform_of_running h rfl _).trans (needGenerator_of_invalid hk _)
  case ksgDestroy => exact (perform_of_running h rfl _).trans (needGenerator_of_invalid hk _)

/-! ### What an operation can do -/

/-- The four ways to need a block counter above 0xFFFFFFFF (60_exceptions R226; KS_XOR by itself is log 1). -/
def NeedsCounterPastLast (i : Instr) (s : State) : Prop :=
  (i = .ksgNext ∧ s.ksg.ovf = true) ∨
  (∃ seq aad pt, i = .sealRecord seq aad pt ∧ Config.maxMsg < pt.length) ∨
  (∃ seq dst aad ctt, i = .openRecord seq dst aad ctt ∧ Config.maxMsg < ctt.length - 16) ∨
  (∃ key nonce ctr0 data, i = .ksXor key nonce ctr0 data ∧ 2 ^ 32 < ctr0.toNat + blocksNeeded data.length)

/-- An operation has written scratch registers and the bus, and nothing else. -/
def EndsInside (s t : State) : Prop := ∃ sc v, t = s.deliver sc v

/-- A command has replaced slots, soundly where they were sound, and has replied. -/
def EndsInReply (s t : State) : Prop :=
  ∃ c k r, t = (withSlots s c k).reply r ∧ (CtxSlotSound s.ctx → CtxSlotSound c) ∧ (KsgSlotSound s.ksg → KsgSlotSound k)

theorem endsInReply_of_reply (s : State) (r : Response) : EndsInReply s (s.reply r) :=
  ⟨s.ctx, s.ksg, r, rfl, id, id⟩

theorem endsInReply_of_ctx (s : State) {c : CtxSlot} (hc : CtxSlotSound c) (r : Response) :
    EndsInReply s ((withSlots s c s.ksg).reply r) :=
  ⟨c, s.ksg, r, rfl, fun _ => hc, id⟩

theorem endsInReply_of_ksg (s : State) {k : KsgSlot} (hk : KsgSlotSound s.ksg → KsgSlotSound k) (r : Response) :
    EndsInReply s ((withSlots s s.ctx k).reply r) :=
  ⟨s.ctx, k, r, rfl, id, hk⟩

theorem ctxSlotSound_of_valid {c : CtxSlot} (hv : c.valid = true) : CtxSlotSound c :=
  fun hf => absurd (hv.symm.trans hf) nofun

theorem ksgSlotSound_of_valid {k : KsgSlot} (hv : k.valid = true) (ho : k.ovf = false) : KsgSlotSound k :=
  ⟨fun hf => absurd (hv.symm.trans hf) nofun, fun ho' => absurd (ho.symm.trans ho') nofun⟩

theorem ctxSlotSound_reset : CtxSlotSound CtxSlot.reset := fun _ => ⟨rfl, rfl⟩

theorem ksgSlotSound_reset : KsgSlotSound KsgSlot.reset := ⟨fun _ => ⟨rfl, rfl, rfl, rfl⟩, nofun⟩

/-- The overflow bit is set only where the counter stays at the last one. -/
theorem ksgSlotSound_nextGenerator {k : KsgSlot} (hv : k.valid = true) (ho : k.ovf = false) :
    KsgSlotSound (nextGenerator k) := by
  refine ⟨fun hf => ?invalid, fun h => ⟨hv, ?last⟩⟩
  case invalid => exact absurd (hv.symm.trans hf) nofun
  case last =>
    by_cases hlast : k.ctr = lastCounter
    · simp [nextGenerator, advanceCtr, hlast, lastCounter]
    · simp [nextGenerator, advanceOvf, hlast, ho] at h

theorem endsInside_of_perform {i : Instr} {s t : State} {sc : Scratch} {v : Option BusValue}
    (e : perform i s (.next (s.deliver sc v)) = .next t) : EndsInside s t := by
  obtain ⟨-, -, h⟩ := perform_next.mp e
  cases h
  exact ⟨sc, v, rfl⟩

/-- Everything KS_XOR by itself can do on a running engine (41_keystream_generator R150; log 1). -/
theorem exec_ksXor_cases {s : State} (h : Running s) (key : Key) (nonce : Nonce) (ctr0 : Word) (data : Bytes) :
    (ctr0.toNat + blocksNeeded data.length ≤ 2 ^ 32 ∧ ∃ sc, exec (.ksXor key nonce ctr0 data) s =
        .next (s.deliver sc (some (.bytes (keystreamMask key nonce ctr0.toNat data)))) ∧
      sc.position = ctr0.toNat + blocksNeeded data.length ∧ sc.CounterSound ∧
      sc = { s.scratch with w := sc.w, w0 := sc.w0, ctr := sc.ctr, ovf := sc.ovf }) ∨
    (2 ^ 32 < ctr0.toNat + blocksNeeded data.length ∧
      exec (.ksXor key nonce ctr0 data) s = .next s.takeCounterOverflow) := by
  rw [exec, execKsXor, perform_of_running h rfl]
  rcases Nat.lt_or_ge (2 ^ 32) (ctr0.toNat + blocksNeeded data.length) with past | within
  · exact .inr ⟨past, by rw [ksXor_none past]⟩
  · obtain ⟨sc, hmask, hrest⟩ := ksXor_some (sc := s.scratch) (key := key) (nonce := nonce) within
    exact .inl ⟨within, sc, by rw [hmask], hrest⟩

/-- Everything an operation that leads on can do: a micro-operation ends inside the engine, a command replies, or a
block counter above 0xFFFFFFFF would be needed and the fault CounterOverflow is taken. -/
theorem exec_next_cases {i : Instr} {s t : State} (e : exec i s = .next t) :
    (i.port = .sequencer ∧ EndsInside s t) ∨ (i.port = .host ∧ EndsInReply s t) ∨
      (NeedsCounterPastLast i s ∧ t = s.takeCounterOverflow) := by
  obtain ⟨h, -⟩ := running_of_exec_next e
  cases i with
  | ctxInit key pre =>
    obtain hk | ⟨ky, rfl, hp⟩ | ⟨ky, p, rfl, rfl⟩ := constructor_lengths_cases key pre
    · cases e.symm.trans (exec_ctxInit_of_bad_key h hk pre)
      exact .inr (.inl ⟨rfl, endsInReply_of_reply _ _⟩)
    · cases e.symm.trans (exec_ctxInit_of_bad_prefix h ky hp)
      exact .inr (.inl ⟨rfl, endsInReply_of_reply _ _⟩)
    · cases e.symm.trans (exec_ctxInit_toList h ky p)
      exact .inr (.inl ⟨rfl, endsInReply_of_ctx s (ctxSlotSound_of_valid rfl) _⟩)
  | ksgInit key nonce ctr0 =>
    obtain hk | ⟨ky, rfl, hn⟩ | ⟨ky, n, rfl, rfl⟩ := constructor_lengths_cases key nonce
    · cases e.symm.trans (exec_ksgInit_of_bad_key h hk nonce ctr0)
      exact .inr (.inl ⟨rfl, endsInReply_of_reply _ _⟩)
    · cases e.symm.trans (exec_ksgInit_of_bad_nonce h ky hn ctr0)
      exact .inr (.inl ⟨rfl, endsInReply_of_reply _ _⟩)
    · cases e.symm.trans (exec_ksgInit_toList h ky n ctr0)
      exact .inr (.inl ⟨rfl, endsInReply_of_ksg s (fun _ => ksgSlotSound_of_valid rfl rfl) _⟩)
  | ctxDestroy =>
    obtain ⟨-, -, rfl⟩ := exec_ctxDestroy_next e
    exact .inr (.inl ⟨rfl, endsInReply_of_ctx s ctxSlotSound_reset _⟩)
  | ksgDestroy =>
    obtain ⟨-, -, rfl⟩ := exec_ksgDestroy_next e
    exact .inr (.inl ⟨rfl, endsInReply_of_ksg s (fun _ => ksgSlotSound_reset) _⟩)
  | ksgNext =>
    obtain ⟨-, hv, ⟨ho, rfl⟩ | ⟨ho, rfl⟩⟩ := exec_ksgNext_next_cases e
    · exact .inr (.inr ⟨.inl ⟨rfl, ho⟩, rfl⟩)
    · exact .inr (.inl ⟨rfl, endsInReply_of_ksg s (fun _ => ksgSlotSound_nextGenerator hv ho) _⟩)
  | sealRecord seq aad pt =>
    obtain ⟨-, -, -, ⟨overlong, rfl⟩ | ⟨-, rfl⟩⟩ := exec_sealRecord_next_cases e
    · exact .inr (.inr ⟨.inr (.inl ⟨seq, aad, pt, rfl, overlong⟩), rfl⟩)
    · exact .inr (.inl ⟨rfl, endsInReply_of_reply _ _⟩)
  | openRecord seq dst aad ctt =>
    obtain ⟨-, -, -, ⟨overlong, rfl⟩ | ⟨-, rfl⟩⟩ := exec_openRecord_next_cases e
    · exact .inr (.inr ⟨.inr (.inr (.inl ⟨seq, dst, aad, ctt, rfl, overlong⟩)), rfl⟩)
    · exact .inr (.inl ⟨rfl, endsInReply_of_reply _ _⟩)
  | ksXor key nonce ctr0 data =>
    obtain ⟨-, sc, e', -⟩ | ⟨past, e'⟩ := exec_ksXor_cases h key nonce ctr0 data <;> cases e.symm.trans e'
    · exact .inl ⟨rfl, sc, _, rfl⟩
    · exact .inr (.inr ⟨.inr (.inr (.inr ⟨key, nonce, ctr0, data, rfl, past⟩)), rfl⟩)
  | qr | dround | cc20Init | cc20Block | p1305Clamp | p1305Block | p1305Final | p1305Mac | aeadNonce | aeadOtk
  | aeadMacdata | aeadTag | tagEq => exact .inl ⟨rfl, endsInside_of_perform e⟩

/-! ### The rules of the whole machine -/

/-- Settles O9: the reset values of the slots, FAULT and PHASE. -/
theorem slotInvariantAtReset : Obligations.SlotInvariantAtReset :=
  ⟨ctxSlotSound_reset, ksgSlotSound_reset, fun _ => rfl, fun h => absurd rfl h⟩

/-- An operation keeps the invariants between commands. -/
theorem exec_keeps_slotInvariant {i : Instr} {s t : State} (inv : SlotInvariant s) (e : exec i s = .next t) :
    SlotInvariant t := by
  obtain ⟨hctx, hksg, hphase⟩ := inv
  obtain ⟨h, -⟩ := running_of_exec_next e
  obtain ⟨-, sc, v, rfl⟩ | ⟨-, c, k, r, rfl, hc, hk⟩ | ⟨-, rfl⟩ := exec_next_cases e
  · exact ⟨hctx, hksg, hphase⟩
  · exact ⟨hc hctx, hk hksg, fun _ => rfl, fun halted => absurd h halted⟩
  · exact ⟨hctx, hksg, fun running => absurd running (not_running_takeCounterOverflow s), fun _ => rfl⟩

/-- Settles O10: a reset restores the slots, an idle step changes nothing, and an operation keeps the invariants. -/
theorem stepKeepsSlotInvariant : Obligations.StepKeepsSlotInvariant := by
  intro s t inv e
  obtain ⟨rest, -, rfl⟩ | ⟨-, rfl⟩ | ⟨-, i, rest, e⟩ := step_next_cases e
  · exact ⟨ctxSlotSound_reset, ksgSlotSound_reset, fun _ => rfl, fun h => absurd rfl h⟩
  · exact inv
  · exact exec_keeps_slotInvariant (s := { s with pending := rest }) inv e

/-- Settles O12: of the three ways a step leads on, two need a running engine. -/
theorem onlyResetLeavesHalt : Obligations.OnlyResetLeavesHalt := by
  intro s t halted e
  obtain ⟨rest, hp, rfl⟩ | ⟨h, -⟩ | ⟨h, -⟩ := step_next_cases e
  · exact ⟨rfl, rest, hp⟩
  · exact absurd h halted
  · exact absurd h halted

/-- Settles O13: a micro-operation that ends inside and a command that replies leave FAULT as it was. -/
theorem onlyCounterOverflowHalts : Obligations.OnlyCounterOverflowHalts := by
  intro i s t h e halted
  obtain ⟨-, sc, v, rfl⟩ | ⟨-, c, k, r, rfl, -⟩ | ⟨needs, rfl⟩ := exec_next_cases e
  · exact absurd h halted
  · exact absurd h halted
  · exact ⟨overflowed_takeCounterOverflow s, needs⟩

/-- Settles O18: a micro-operation ends inside the engine or takes the fault; neither touches a slot or a response. -/
theorem microOperationsStayInside : Obligations.MicroOperationsStayInside := by
  intro i s t hp e
  obtain ⟨-, sc, v, rfl⟩ | ⟨host, -⟩ | ⟨-, rfl⟩ := exec_next_cases e
  · exact ⟨⟨rfl, rfl⟩, rfl, rfl⟩
  · exact absurd (hp.symm.trans host) nofun
  · exact ⟨⟨rfl, rfl⟩, rfl, rfl⟩

/-- Settles O19: a command replies, and the engine is running, or takes the fault, and it is not. -/
theorem oneResponsePerCommand : Obligations.OneResponsePerCommand := by
  intro i s t hp e
  obtain ⟨h, -⟩ := running_of_exec_next e
  obtain ⟨sequencer, -⟩ | ⟨-, c, k, r, rfl, -⟩ | ⟨-, rfl⟩ := exec_next_cases e
  · exact absurd (hp.symm.trans sequencer) nofun
  · exact ⟨fun _ => ⟨r, rfl⟩, fun halted => absurd h halted⟩
  · exact ⟨fun running => absurd running (not_running_takeCounterOverflow s), fun _ => rfl⟩

/-! ### What commands do not read -/

/-- Settles O16: SEAL and OPEN are functions of the context and their operands (`exec_sealRecord_eq`,
`exec_openRecord_eq`), and no other command names a scratch register. -/
theorem commandsReadNoScratch : Obligations.CommandsReadNoScratch := by
  intro i s sc hp
  cases i with
  | sealRecord seq aad pt =>
    rw [exec_sealRecord_eq, exec_sealRecord_eq]
    rfl
  | openRecord seq dst aad ctt =>
    rw [exec_openRecord_eq, exec_openRecord_eq]
    rfl
  | ctxInit | ctxDestroy | ksgInit | ksgNext | ksgDestroy => rfl
  | _ => cases hp

/-! ### The slots are independent (10_state section 1) -/

/-- A command neither writes the context slot nor reads it: with another context it ends the same way. -/
abbrev IgnoresCtx (i : Instr) (s t : State) : Prop :=
  t.ctx = s.ctx ∧ ∀ c, exec i { s with ctx := c } = .next { t with ctx := c }

/-- A command neither writes the generator slot nor reads it: with another generator it ends the same way. -/
abbrev IgnoresKsg (i : Instr) (s t : State) : Prop :=
  t.ksg = s.ksg ∧ ∀ k, exec i { s with ksg := k } = .next { t with ksg := k }

section
variable {s t : State}

theorem ksgNext_ignoresCtx (e : exec .ksgNext s = .next t) : IgnoresCtx .ksgNext s t := by
  obtain ⟨h, hv, ⟨ho, rfl⟩ | ⟨ho, rfl⟩⟩ := exec_ksgNext_next_cases e
  · exact ⟨rfl, fun c => exec_ksgNext_of_ovf (s := { s with ctx := c }) h hv ho⟩
  · exact ⟨rfl, fun c => exec_ksgNext_of_not_ovf (s := { s with ctx := c }) h hv ho⟩

theorem ksgDestroy_ignoresCtx (e : exec .ksgDestroy s = .next t) : IgnoresCtx .ksgDestroy s t := by
  obtain ⟨h, hv, rfl⟩ := exec_ksgDestroy_next e
  exact ⟨rfl, fun c => exec_ksgDestroy (s := { s with ctx := c }) h hv⟩

theorem ksgInit_ignoresCtx {key nonce : Bytes} {ctr0 : Word} (e : exec (.ksgInit key nonce ctr0) s = .next t) :
    IgnoresCtx (.ksgInit key nonce ctr0) s t := by
  obtain ⟨h, -⟩ := running_of_exec_next e
  obtain hk | ⟨ky, rfl, hn⟩ | ⟨ky, n, rfl, rfl⟩ := constructor_lengths_cases key nonce
  · cases e.symm.trans (exec_ksgInit_of_bad_key h hk nonce ctr0)
    exact ⟨rfl, fun c => exec_ksgInit_of_bad_key (s := { s with ctx := c }) h hk nonce ctr0⟩
  · cases e.symm.trans (exec_ksgInit_of_bad_nonce h ky hn ctr0)
    exact ⟨rfl, fun c => exec_ksgInit_of_bad_nonce (s := { s with ctx := c }) h ky hn ctr0⟩
  · cases e.symm.trans (exec_ksgInit_toList h ky n ctr0)
    exact ⟨rfl, fun c => exec_ksgInit_toList (s := { s with ctx := c }) h ky n ctr0⟩

theorem ctxDestroy_ignoresKsg (e : exec .ctxDestroy s = .next t) : IgnoresKsg .ctxDestroy s t := by
  obtain ⟨h, hv, rfl⟩ := exec_ctxDestroy_next e
  exact ⟨rfl, fun k => exec_ctxDestroy (s := { s with ksg := k }) h hv⟩

theorem ctxInit_ignoresKsg {key pre : Bytes} (e : exec (.ctxInit key pre) s = .next t) :
    IgnoresKsg (.ctxInit key pre) s t := by
  obtain ⟨h, -⟩ := running_of_exec_next e
  obtain hk | ⟨ky, rfl, hp⟩ | ⟨ky, p, rfl, rfl⟩ := constructor_lengths_cases key pre
  · cases e.symm.trans (exec_ctxInit_of_bad_key h hk pre)
    exact ⟨rfl, fun k => exec_ctxInit_of_bad_key (s := { s with ksg := k }) h hk pre⟩
  · cases e.symm.trans (exec_ctxInit_of_bad_prefix h ky hp)
    exact ⟨rfl, fun k => exec_ctxInit_of_bad_prefix (s := { s with ksg := k }) h ky hp⟩
  · cases e.symm.trans (exec_ctxInit_toList h ky p)
    exact ⟨rfl, fun k => exec_ctxInit_toList (s := { s with ksg := k }) h ky p⟩

theorem sealRecord_ignoresKsg {seq : BitVec 64} {aad pt : Bytes} (e : exec (.sealRecord seq aad pt) s = .next t) :
    IgnoresKsg (.sealRecord seq aad pt) s t := by
  obtain ⟨h, hw, hv, ⟨overlong, rfl⟩ | ⟨within, rfl⟩⟩ := exec_sealRecord_next_cases e
  · exact ⟨rfl, fun k => exec_sealRecord_of_overlong (s := { s with ksg := k }) h hv hw overlong⟩
  · exact ⟨rfl, fun k => exec_sealRecord_of_within (s := { s with ksg := k }) h hv hw within⟩

theorem openRecord_ignoresKsg {seq : BitVec 64} {dst : Option Bytes} {aad ctt : Bytes}
    (e : exec (.openRecord seq dst aad ctt) s = .next t) : IgnoresKsg (.openRecord seq dst aad ctt) s t := by
  obtain ⟨h, hw, hv, ⟨overlong, rfl⟩ | ⟨within, rfl⟩⟩ := exec_openRecord_next_cases e
  · exact ⟨rfl, fun k => exec_openRecord_of_overlong (s := { s with ksg := k }) h hv hw overlong⟩
  · exact ⟨rfl, fun k => exec_openRecord_of_within (s := { s with ksg := k }) h hv hw within⟩

end

/-- Settles O17: one lemma for each command, which names the one slot that the command's rule names. -/
theorem slotsAreIndependent : Obligations.SlotsAreIndependent := by
  refine ⟨fun i s t c e hi => ?generator, fun i s t k e hi => ?context⟩
  case generator =>
    have ignores : IgnoresCtx i s t := by
      rcases hi with rfl | rfl | ⟨_, _, _, rfl⟩
      · exact ksgNext_ignoresCtx e
      · exact ksgDestroy_ignoresCtx e
      · exact ksgInit_ignoresCtx e
    exact ⟨ignores.1, ignores.2 c⟩
  case context =>
    have ignores : IgnoresKsg i s t := by
      rcases hi with rfl | ⟨_, _, rfl⟩ | ⟨_, _, _, rfl⟩ | ⟨_, _, _, _, rfl⟩
      · exact ctxDestroy_ignoresKsg e
      · exact ctxInit_ignoresKsg e
      · exact sealRecord_ignoresKsg e
      · exact openRecord_ignoresKsg e
    exact ⟨ignores.1, ignores.2 k⟩

end Sys2Proof.Proofs
end

section
/-! PROOFS. The words of the ChaCha20 core (40_chacha20_core): QR as two invertible halves, the lanes of a double round,
and the words of the initial matrix. -/

namespace Sys2Proof.Proofs

open Sys2Proof Sys2Proof.Machine Sys2Proof.Safety

/-! ### QR (40_chacha20_core QR) -/

theorem exec_qr {s : State} (h : Running s) {a b c d : Fin 16} (hd : indicesDistinct a b c d = true) :
    exec (.qr a b c d) s = .next (s.deliver (s.scratch.qr a b c d) none) :=
  perform_of_running (i := .qr a b c d) h hd _

/-- The words of a matrix at four indices. -/
abbrev quadAt (w : Matrix) (a b c d : Fin 16) : Quad := { a := w[a], b := w[b], c := w[c], d := w[d] }

/-- QR puts the quarter-round of the four words it finds in their place (40_chacha20_core R120). -/
theorem quadAt_qrAt_self {a b c d : Fin 16} (hd : indicesDistinct a b c d = true) (w : Matrix) :
    quadAt (qrAt a b c d w) a b c d = quarterRound (quadAt w a b c d) := by
  obtain ⟨hab, hac, had, hbc, hbd, hcd⟩ := of_decide_eq_true hd
  simp only [quadAt, qrAt_get a b c d w hd, if_true, if_neg hab.symm, if_neg hac.symm, if_neg had.symm, if_neg hbc.symm,
    if_neg hbd.symm, if_neg hcd.symm]

/-- QR writes no other word (40_chacha20_core R120). -/
theorem qrAt_getElem_other {a b c d : Fin 16} (hd : indicesDistinct a b c d = true) (w : Matrix) {i : Fin 16}
    (ha : i ≠ a) (hb : i ≠ b) (hc : i ≠ c) (hd' : i ≠ d) : (qrAt a b c d w)[i] = w[i] := by
  rw [qrAt_get a b c d w hd, if_neg ha, if_neg hb, if_neg hc, if_neg hd']

/-- Settles O20: the words at the indices by `quarterRound_toNat`, every other word by `qrAt_getElem_other`. -/
theorem quarterRoundSteps : Obligations.QuarterRoundSteps := by
  intro a b c d s h hd
  refine ⟨_, exec_qr h hd, delivered_deliver _ _ _, rfl, ?steps,
    fun i ha hb hc hd' => qrAt_getElem_other hd _ ha hb hc hd'⟩
  case steps =>
    have e := quadAt_qrAt_self hd s.scratch.w
    rw [State.deliver_scratch, Scratch.qr_w, ← quarterRound_toNat (quadAt s.scratch.w a b c d), ← e]

/-! ### QR is injective (40_chacha20_core QR, properties, (d)) -/

/-- Bit `i` of a word is bit `(i + n) mod 32` of the word rotated by `n` (00_scope R9). -/
theorem getLsbD_rotl32 (v : Word) {n i : Nat} (hn : n ≤ 32) (hi : i < 32) :
    (rotl32 v n).getLsbD ((i + n) % 32) = v.getLsbD i := by
  rcases Nat.lt_or_ge (i + n) 32 with low | high
  · rw [BitVec.getLsbD_eq_getElem hi]
    simp [rotl32, Nat.mod_eq_of_lt low, low, show 32 - n + (i + n) = 32 + i by omega]
  · have hmod : (i + n) % 32 = i + n - 32 := by omega
    simp [rotl32, hmod, show i + n - 32 < n by omega, show 32 - n + (i + n - 32) = i by omega]

/-- A rotation loses no bit. -/
theorem rotl32_injective {n : Nat} (hn : n ≤ 32) {v w : Word} (h : rotl32 v n = rotl32 w n) : v = w := by
  apply BitVec.eq_of_getLsbD_eq
  intro i hi
  rw [← getLsbD_rotl32 v hn hi, h, getLsbD_rotl32 w hn hi]

/-- Six of the twelve steps of QR; the other six are the same with other rotations. -/
def halfRound (m n : Nat) (q : Quad) : Quad :=
  let a := q.a + q.b
  let d := rotl32 (q.d ^^^ a) m
  let c := q.c + d
  let b := rotl32 (q.b ^^^ c) n
  { a := a, b := b, c := c, d := d }

theorem quarterRound_eq_halfRounds (q : Quad) : quarterRound q = halfRound 8 7 (halfRound 16 12 q) := by
  rw [quarterRound]
  rfl

/-- Each step can be undone from what the later ones left. -/
theorem halfRound_injective {m n : Nat} (hm : m ≤ 32) (hn : n ≤ 32) {p q : Quad}
    (h : halfRound m n p = halfRound m n q) : p = q := by
  obtain ⟨a, b, c, d⟩ := p
  obtain ⟨a', b', c', d'⟩ := q
  simp only [halfRound, Quad.mk.injEq] at h
  obtain ⟨ha, hb, hc, hd⟩ := h
  rw [hc] at hb
  obtain rfl : b = b' := (BitVec.xor_left_inj _).mp (rotl32_injective hn hb)
  obtain rfl : a = a' := (BitVec.add_left_inj _).mp ha
  obtain rfl : d = d' := (BitVec.xor_left_inj _).mp (rotl32_injective hm hd)
  obtain rfl : c = c' := (BitVec.add_left_inj _).mp hc
  rfl

/-- Settles O21: QR is two half rounds, and each is injective. -/
theorem quarterRoundInjective : Obligations.QuarterRoundInjective := by
  intro p q h
  rw [quarterRound_eq_halfRounds, quarterRound_eq_halfRounds] at h
  exact halfRound_injective (by decide) (by decide) (halfRound_injective (by decide) (by decide) h)

/-! ### DROUND (40_chacha20_core DROUND) -/

/-- The words at four indices that another QR does not touch. -/
theorem quadAt_qrAt_other {a b c d a' b' c' d' : Fin 16} (hd : indicesDistinct a b c d = true) (w : Matrix)
    (h : ∀ i ∈ [a', b', c', d'], i ∉ [a, b, c, d]) : quadAt (qrAt a b c d w) a' b' c' d' = quadAt w a' b' c' d' := by
  have keep : ∀ i ∈ [a', b', c', d'], (qrAt a b c d w)[i] = w[i] := by
    intro i hi
    have := h i hi
    simp only [List.mem_cons, List.not_mem_nil, not_or] at this
    obtain ⟨ha, hb, hc, hd', -⟩ := this
    exact qrAt_getElem_other hd w ha hb hc hd'
  simp only [quadAt, keep a' (by simp), keep b' (by simp), keep c' (by simp), keep d' (by simp)]

/-- A column of the matrix after the column half is the quarter-round of the column before it. -/
theorem quadAt_columnRound (w : Matrix) :
    quadAt (columnRound w) 0 4 8 12 = quarterRound (quadAt w 0 4 8 12) ∧
    quadAt (columnRound w) 1 5 9 13 = quarterRound (quadAt w 1 5 9 13) ∧
    quadAt (columnRound w) 2 6 10 14 = quarterRound (quadAt w 2 6 10 14) ∧
    quadAt (columnRound w) 3 7 11 15 = quarterRound (quadAt w 3 7 11 15) := by
  rw [columnRound]
  refine ⟨?_, ?_, ?_, ?_⟩ <;>
    simp (disch := decide) only [quadAt_qrAt_self, quadAt_qrAt_other]

/-- A diagonal of the matrix after the diagonal half is the quarter-round of the diagonal before it. -/
theorem quadAt_diagonalRound (w : Matrix) :
    quadAt (diagonalRound w) 0 5 10 15 = quarterRound (quadAt w 0 5 10 15) ∧
    quadAt (diagonalRound w) 1 6 11 12 = quarterRound (quadAt w 1 6 11 12) ∧
    quadAt (diagonalRound w) 2 7 8 13 = quarterRound (quadAt w 2 7 8 13) ∧
    quadAt (diagonalRound w) 3 4 9 14 = quarterRound (quadAt w 3 4 9 14) := by
  rw [diagonalRound]
  refine ⟨?_, ?_, ?_, ?_⟩ <;>
    simp (disch := decide) only [quadAt_qrAt_self, quadAt_qrAt_other]

/-- Settles O22: the matrix between the halves is `columnRound` of W; lane by lane, `quadAt_columnRound` and
`quadAt_diagonalRound`. -/
theorem doubleRoundLanes : Obligations.DoubleRoundLanes := by
  intro s h
  refine ⟨_, columnRound s.scratch.w, exec_dround h, delivered_deliver _ _ _, rfl, fun c hc => ?lane⟩
  case lane =>
    obtain ⟨c0, c1, c2, c3⟩ := quadAt_columnRound s.scratch.w
    obtain ⟨d0, d1, d2, d3⟩ := quadAt_diagonalRound (columnRound s.scratch.w)
    rw [State.deliver_scratch, Scratch.dround_w, doubleRound]
    match c, hc with
    | 0, _ => exact ⟨c0.symm, d0.symm⟩
    | 1, _ => exact ⟨c1.symm, d1.symm⟩
    | 2, _ => exact ⟨c2.symm, d2.symm⟩
    | 3, _ => exact ⟨c3.symm, d3.symm⟩

/-! ### CC20_INIT (40_chacha20_core CC20_INIT) -/

/-- The words of the initial matrix, in their order (30_encoding R82). -/
theorem initialMatrix_toList (key : Key) (ctr : Word) (nonce : Nonce) : (initialMatrix key ctr nonce).toList =
    sigma ++ ((List.range 8).map (wordAt key.toList) ++ (ctr :: (List.range 3).map (wordAt nonce.toList))) := by
  rw [initialMatrix]
  exact toList_vecOf _ _

theorem initialMatrix_getElem (key : Key) (ctr : Word) (nonce : Nonce) (i : Nat) (h : i < 16) :
    (initialMatrix key ctr nonce)[i] = (sigma ++ ((List.range 8).map (wordAt key.toList) ++
      (ctr :: (List.range 3).map (wordAt nonce.toList))))[i]'(by simp [sigma]; omega) := by
  simp only [← initialMatrix_toList, Vector.getElem_toList]

theorem initialMatrix_key_word (key : Key) (ctr : Word) (nonce : Nonce) (j : Nat) (h : j < 8) :
    (initialMatrix key ctr nonce)[4 + j] = wordAt key.toList j := by
  rw [initialMatrix_getElem, List.getElem_append_right (by simp [sigma]), List.getElem_append_left (by simp [sigma, h])]
  simp [sigma]

theorem initialMatrix_nonce_word (key : Key) (ctr : Word) (nonce : Nonce) (j : Nat) (h : j < 3) :
    (initialMatrix key ctr nonce)[13 + j] = wordAt nonce.toList j := by
  rw [initialMatrix_getElem, List.getElem_append_right (by simp [sigma]; omega),
    List.getElem_append_right (by simp [sigma]; omega)]
  simp [sigma, show 13 + j - 4 - 8 = j + 1 by omega]

/-- A word of a byte string is its four bytes, the least significant first (00_scope R10). -/
theorem wordAt_toNat {n : Nat} (b : Vector Byte n) (j : Nat) (h : 4 * j + 3 < n) :
    (wordAt b.toList j).toNat = le32At b (4 * j) h := by
  have hread : memRead b.toList (4 * j) 4 = [b[4 * j], b[4 * j + 1], b[4 * j + 2], b[4 * j + 3]] := by
    apply List.ext_getElem
    · simp [memRead]; omega
    · intro i hi hi'
      match i, hi' with
      | 0, _ | 1, _ | 2, _ | 3, _ => simp [memRead]
  have h0 := b[4 * j].isLt
  have h1 := b[4 * j + 1].isLt
  have h2 := b[4 * j + 2].isLt
  have h3 := b[4 * j + 3].isLt
  simp only [wordAt, hread, leNat, le32At, BitVec.toNat_ofNat]
  omega

/-- Settles O23: the words of the initial matrix, and the bytes of each of those read from the operands. -/
theorem initialMatrixLayout : Obligations.InitialMatrixLayout := by
  intro key ctr nonce s h
  refine ⟨_, exec_cc20Init h key ctr nonce, delivered_deliver _ _ _, rfl, ?c0, ?c1, ?c2, ?c3, ?keyWords, ?counter,
    ?nonceWords, rfl⟩
  case keyWords =>
    intro j hj
    rw [State.deliver_scratch, Scratch.cc20Init_w, initialMatrix_key_word key ctr nonce j hj, wordAt_toNat]
  case nonceWords =>
    intro j hj
    rw [State.deliver_scratch, Scratch.cc20Init_w, initialMatrix_nonce_word key ctr nonce j hj, wordAt_toNat]
  all_goals exact initialMatrix_getElem key ctr nonce _ (by decide)

end Sys2Proof.Proofs
end

section
/-! PROOFS. The constructors and destructors of both slots, the keystream generator and KS_XOR (41_keystream_generator,
43_aead CTX_INIT and CTX_DESTROY). -/

namespace Sys2Proof.Proofs

open Sys2Proof Sys2Proof.Machine Sys2Proof.Safety

/-! ### Constructors and destructors -/

/-- Settles O25: `constructor_lengths_cases`, and KSG_INIT's rule in each case. -/
theorem generatorConstructed : Obligations.GeneratorConstructed := by
  intro key nonce ctr0 s h
  obtain hk | ⟨ky, rfl, hn⟩ | ⟨ky, n, rfl, rfl⟩ := constructor_lengths_cases key nonce
  · refine ⟨_, exec_ksgInit_of_bad_key h hk nonce ctr0, rfl, ?_⟩
    rw [if_pos hk]
    exact ⟨replied_reply s _, rfl, rfl⟩
  · refine ⟨_, exec_ksgInit_of_bad_nonce h ky hn ctr0, rfl, ?_⟩
    rw [if_neg (by simp), if_pos hn]
    exact ⟨replied_reply s _, rfl, rfl⟩
  · refine ⟨_, exec_ksgInit_toList h ky n ctr0, rfl, ?_⟩
    rw [if_neg (by simp), if_neg (by simp)]
    exact ⟨replied_reply_withSlots s _ _ _, rfl, rfl, rfl, rfl, rfl, rfl⟩

/-- Settles O39: `constructor_lengths_cases`, and CTX_INIT's rule in each case. -/
theorem contextConstructed : Obligations.ContextConstructed := by
  intro key pre s h
  obtain hk | ⟨ky, rfl, hp⟩ | ⟨ky, p, rfl, rfl⟩ := constructor_lengths_cases key pre
  · refine ⟨_, exec_ctxInit_of_bad_key h hk pre, rfl, ?_⟩
    rw [if_pos hk]
    exact ⟨replied_reply s _, rfl, rfl⟩
  · refine ⟨_, exec_ctxInit_of_bad_prefix h ky hp, rfl, ?_⟩
    rw [if_neg (by simp), if_pos hp]
    exact ⟨replied_reply s _, rfl, rfl⟩
  · refine ⟨_, exec_ctxInit_toList h ky p, rfl, ?_⟩
    rw [if_neg (by simp), if_neg (by simp)]
    exact ⟨replied_reply_withSlots s _ _ _, rfl, rfl, rfl, rfl⟩

/-- The result of a constructor, by the lengths it is given (60_exceptions R221, R222, R228). -/
def constructorResult (key other : Bytes) : Result :=
  if key.length ≠ 32 then .invalidKeyLength else if other.length ≠ 12 then .invalidNonceLength else .ok

/-- What the constructors have in common: the result is that of the lengths, and unless it is OK both slots are kept. -/
theorem constructor_replies {s : State} (h : Running s) {i : Instr} {key other : Bytes} {ctr0 : Word}
    (hi : i = .ctxInit key other ∨ i = .ksgInit key other ctr0) :
    ∃ t, exec i s = .next t ∧ Replied s t (codeOnly (constructorResult key other)) ∧
      (constructorResult key other ≠ .ok → SlotsKept s t) := by
  obtain hk | ⟨ky, rfl, hn⟩ | ⟨ky, n, rfl, rfl⟩ := constructor_lengths_cases key other
  · have hr : constructorResult key other = .invalidKeyLength := if_pos hk
    rw [hr]
    refine ⟨s.reply (codeOnly .invalidKeyLength), ?_, replied_reply s _, fun _ => ⟨rfl, rfl⟩⟩
    rcases hi with rfl | rfl
    · exact exec_ctxInit_of_bad_key h hk other
    · exact exec_ksgInit_of_bad_key h hk other ctr0
  · have hr : constructorResult ky.toList other = .invalidNonceLength := by simp [constructorResult, hn]
    rw [hr]
    refine ⟨s.reply (codeOnly .invalidNonceLength), ?_, replied_reply s _, fun _ => ⟨rfl, rfl⟩⟩
    rcases hi with rfl | rfl
    · exact exec_ctxInit_of_bad_prefix h ky hn
    · exact exec_ksgInit_of_bad_nonce h ky hn ctr0
  · have hr : constructorResult ky.toList n.toList = .ok := by simp [constructorResult]
    rw [hr]
    rcases hi with rfl | rfl
    · exact ⟨_, exec_ctxInit_toList h ky n, replied_reply_withSlots s _ _ _, fun bad => absurd rfl bad⟩
    · exact ⟨_, exec_ksgInit_toList h ky n ctr0, replied_reply_withSlots s _ _ _, fun bad => absurd rfl bad⟩

theorem constructorResult_eq_invalidKeyLength {key other : Bytes} :
    constructorResult key other = .invalidKeyLength ↔ key.length ≠ 32 := by
  unfold constructorResult
  split
  case isTrue hk => simp [hk]
  case isFalse hk => split <;> simp_all

theorem constructorResult_eq_invalidNonceLength {key other : Bytes} :
    constructorResult key other = .invalidNonceLength ↔ key.length = 32 ∧ other.length ≠ 12 := by
  unfold constructorResult
  split
  case isTrue hk => simp [hk]
  case isFalse hk => split <;> simp_all

/-- Settles O26: the result of the lengths is InvalidKeyLength exactly for a wrong key. -/
theorem keyLengthChecked : Obligations.KeyLengthChecked := by
  intro i key other ctr0 s h hi
  obtain ⟨t, e, replied, kept⟩ := constructor_replies h hi
  refine ⟨t, _, e, replied, constructorResult_eq_invalidKeyLength, fun hk => ⟨kept ?_, rfl⟩⟩
  rw [constructorResult_eq_invalidKeyLength.mpr hk]
  nofun

/-- Settles O27: the result of the lengths is InvalidNonceLength exactly for a right key and a wrong nonce. -/
theorem nonceLengthChecked : Obligations.NonceLengthChecked := by
  intro i key other ctr0 s h hi
  obtain ⟨t, e, replied, kept⟩ := constructor_replies h hi
  refine ⟨t, _, e, replied, constructorResult_eq_invalidNonceLength, fun hk hn => ⟨kept ?_, rfl⟩⟩
  rw [constructorResult_eq_invalidNonceLength.mpr ⟨hk, hn⟩]
  nofun

/-- Settles O30: the destroyed slot is `KsgSlot.reset`. -/
theorem generatorDestroyed : Obligations.GeneratorDestroyed := fun s h hv =>
  ⟨_, exec_ksgDestroy h hv, replied_reply_withSlots s _ _ _, rfl, rfl, rfl⟩

/-- Settles O40: the destroyed slot is `CtxSlot.reset`. -/
theorem contextDestroyed : Obligations.ContextDestroyed := fun s h hv =>
  ⟨_, exec_ctxDestroy h hv, replied_reply_withSlots s _ _ _, rfl, rfl, rfl⟩

/-! ### KSG_NEXT -/

theorem lastCounter_toNat : lastCounter.toNat = 2 ^ 32 - 1 := rfl

/-- The two cases of a generator that makes a block: below the last counter, and at it (41_keystream_generator R143). -/
theorem nextGenerator_cases {k : KsgSlot} (ho : k.ovf = false) :
    (k.ctr.toNat < 2 ^ 32 - 1 ∧ (nextGenerator k).ctr.toNat = k.ctr.toNat + 1 ∧ (nextGenerator k).ovf = false) ∨
    (k.ctr.toNat = 2 ^ 32 - 1 ∧ (nextGenerator k).ctr = k.ctr ∧ (nextGenerator k).ovf = true) := by
  by_cases last : k.ctr = lastCounter
  · exact .inr ⟨by rw [last, lastCounter_toNat], by simp [nextGenerator, advanceCtr, last],
      by simp [nextGenerator, advanceOvf, last]⟩
  · have hne : k.ctr.toNat ≠ 2 ^ 32 - 1 := fun e => last (BitVec.eq_of_toNat_eq e)
    have hlt := k.ctr.isLt
    refine .inl ⟨by omega, ?_, by simp [nextGenerator, advanceOvf, last, ho]⟩
    simp [nextGenerator, advanceCtr, last]
    omega

/-- The two halves in which O28 and O58 say what becomes of the counter. -/
theorem nextGenerator_counter {k : KsgSlot} (ho : k.ovf = false) :
    (k.ctr.toNat < 2 ^ 32 - 1 → (nextGenerator k).ctr.toNat = k.ctr.toNat + 1 ∧ (nextGenerator k).ovf = false) ∧
    (k.ctr.toNat = 2 ^ 32 - 1 → (nextGenerator k).ctr = k.ctr ∧ (nextGenerator k).ovf = true) := by
  obtain ⟨below, next⟩ | ⟨last, next⟩ := nextGenerator_cases ho
  · exact ⟨fun _ => next, fun last => absurd last (Nat.ne_of_lt below)⟩
  · exact ⟨fun below => absurd last (Nat.ne_of_lt below), fun _ => next⟩

/-- Settles O28: KSG_NEXT's two rules, and the counter by `nextGenerator_counter`. -/
theorem nextKeystreamBlock : Obligations.NextKeystreamBlock := by
  intro s h hv
  cases ho : s.ksg.ovf with
  | true =>
    exact ⟨_, exec_ksgNext_of_ovf h hv ho, fun _ => overflowed_takeCounterOverflow s, nofun⟩
  | false =>
    exact ⟨_, exec_ksgNext_of_not_ovf h hv ho, nofun,
      fun _ => ⟨replied_reply_withSlots s _ _ _, rfl, hv, rfl, rfl, nextGenerator_counter ho⟩⟩

/-- The generator's counter and its overflow bit as one 33-bit counter (10_state R22). -/
def generatorPosition (k : KsgSlot) : Nat := if k.ovf then 2 ^ 32 else k.ctr.toNat

theorem generatorPosition_of_not_ovf {k : KsgSlot} (ho : k.ovf = false) : generatorPosition k = k.ctr.toNat := by
  simp [generatorPosition, ho]

/-- A block moves the generator one position on. -/
theorem generatorPosition_nextGenerator {k : KsgSlot} (ho : k.ovf = false) :
    generatorPosition (nextGenerator k) = generatorPosition k + 1 := by
  rw [generatorPosition_of_not_ovf ho, generatorPosition]
  obtain ⟨-, hctr, hovf⟩ | ⟨last, -, hovf⟩ := nextGenerator_cases ho
  · simp [hctr, hovf]
  · simp [last, hovf]

/-- Before the end of the block sequence the overflow bit is clear. -/
theorem not_ovf_of_generatorPosition_lt {k : KsgSlot} (h : generatorPosition k < 2 ^ 32) : k.ovf = false := by
  by_contra ho
  rw [Bool.not_eq_false] at ho
  rw [generatorPosition, ho, if_pos rfl] at h
  exact absurd h (Nat.lt_irrefl _)

/-- The responses of `n` KSG_NEXT commands from a position of the generator on. -/
def blockResponses (key : Key) (nonce : Nonce) (position n : Nat) : List Response :=
  (List.range n).map fun j =>
    { result := .ok, buffer := none, output := some (cc20Block key (BitVec.ofNat 32 (position + j)) nonce).toList }

/-- The responses start with the block of the position itself. -/
theorem blockResponses_succ {k : KsgSlot} (ho : k.ovf = false) (n : Nat) :
    blockResponses k.key k.nonce (generatorPosition k) (n + 1) =
      blockResponse k :: blockResponses k.key k.nonce (generatorPosition (nextGenerator k)) n := by
  rw [generatorPosition_nextGenerator ho, generatorPosition_of_not_ovf ho]
  simp [blockResponses, blockResponse, List.range_succ_eq_map, Nat.add_assoc, Nat.add_comm 1]

/-- The block sequence from any position of a generator, as long as its blocks do not go past the last counter. -/
theorem performAll_replicate_ksgNext (n : Nat) (s : State) (h : Running s) (hv : s.ksg.valid = true)
    (hle : generatorPosition s.ksg + n ≤ 2 ^ 32) :
    ∃ t, performAll (List.replicate n .ksgNext) s = .next t ∧ Running t ∧
      t.responses = s.responses ++ blockResponses s.ksg.key s.ksg.nonce (generatorPosition s.ksg) n := by
  induction n generalizing s with
  | zero => exact ⟨s, performAll_nil s, h, by simp [blockResponses]⟩
  | succ n ih =>
    have ho := not_ovf_of_generatorPosition_lt (k := s.ksg) (by omega)
    have hle' : generatorPosition (nextGenerator s.ksg) + n ≤ 2 ^ 32 := by
      rw [generatorPosition_nextGenerator ho]
      omega
    obtain ⟨t, hperform, hrunning, hresponses⟩ :=
      ih ((withSlots s s.ctx (nextGenerator s.ksg)).reply (blockResponse s.ksg)) h hv hle'
    refine ⟨t, ?_, hrunning, ?_⟩
    · rw [List.replicate_succ, performAll_cons_of_next (exec_ksgNext_of_not_ovf h hv ho), hperform]
    · rw [hresponses, blockResponses_succ ho, List.append_cons]
      rfl

/-- Settles O29: the block sequence from a generator whose overflow bit is clear. -/
theorem blockSequence : Obligations.BlockSequence := by
  intro n s h hv ho hle
  rw [← generatorPosition_of_not_ovf ho] at hle ⊢
  exact performAll_replicate_ksgNext n s h hv hle

/-! ### KS_XOR -/

/-- A sound counter and its overflow bit, from the position they stand for (10_state R22). -/
theorem counter_of_position {sc : Scratch} (hs : sc.CounterSound) :
    sc.ctr.toNat = min sc.position (2 ^ 32 - 1) ∧ sc.ovf = decide (sc.position = 2 ^ 32) := by
  have hlt := sc.ctr.isLt
  cases ho : sc.ovf with
  | true =>
    have hpos : sc.position = 2 ^ 32 := by simp [Scratch.position, ho]
    rw [hs ho, hpos, lastCounter_toNat]
    simp
  | false =>
    have hpos : sc.position = sc.ctr.toNat := by simp [Scratch.position, ho]
    rw [hpos]
    exact ⟨by omega, (decide_eq_false (by omega)).symm⟩

/-- Settles O31: KS_XOR's rule, and the counter from its position by `counter_of_position`. -/
theorem keystreamMasking : Obligations.KeystreamMasking := by
  intro key nonce ctr0 data s h within
  obtain ⟨-, sc, e, hpos, hsound, hframe⟩ | ⟨past, -⟩ := exec_ksXor_cases h key nonce ctr0 data
  · obtain ⟨hctr, hovf⟩ := counter_of_position hsound
    rw [hpos] at hctr hovf
    exact ⟨_, e, delivered_deliver _ _ _, keystreamMask_length _ _ _ _, hctr, hovf, hframe⟩
  · exact absurd within (Nat.not_le_of_lt past)

/-- Settles O32: KS_XOR's rule past the last counter. -/
theorem maskingPastLastCounterFaults : Obligations.MaskingPastLastCounterFaults := by
  intro key nonce ctr0 data s h past
  obtain ⟨within, -⟩ | ⟨-, e⟩ := exec_ksXor_cases h key nonce ctr0 data
  · exact absurd within (Nat.not_le_of_lt past)
  · exact ⟨_, e, overflowed_takeCounterOverflow s⟩

/-- Settles O33: what KS_XOR put on the bus is as long as the data, so the second KS_XOR does not fault either, and
`keystreamMask_involution` gives the data back. -/
theorem maskingIsInvolution : Obligations.MaskingIsInvolution := by
  intro key nonce ctr0 x y s t u e hbus ht hu
  obtain ⟨h, -⟩ := running_of_exec_next e
  obtain ⟨within, sc, e', -⟩ | ⟨-, e'⟩ := exec_ksXor_cases h key nonce ctr0 x <;> cases e.symm.trans e'
  case inr => exact absurd ht (not_running_takeCounterOverflow s)
  case inl =>
    obtain rfl : keystreamMask key nonce ctr0.toNat x = y := by simpa using hbus
    obtain ⟨-, sc', e', -⟩ | ⟨past, -⟩ := exec_ksXor_cases hu key nonce ctr0 (keystreamMask key nonce ctr0.toNat x)
    · exact ⟨_, e', by rw [State.deliver_bus, keystreamMask_involution]⟩
    · rw [keystreamMask_length] at past
      exact absurd within (Nat.not_le_of_lt past)

end Sys2Proof.Proofs
end

section
/-! PROOFS. The one-time key (42_poly1305 P1305_CLAMP and corner cases), the derived nonce and the authenticated byte
string (43_aead AEAD_NONCE and AEAD_MACDATA). -/

namespace Sys2Proof.Proofs

open Sys2Proof Sys2Proof.Machine Sys2Proof.Safety

/-! ### The one-time key -/

/-- The clamp mask clears bits 28 to 31 of each quarter and bits 0 and 1 of the three upper ones (30_encoding R93). -/
theorem getLsbD_clampMask : ∀ i < 128, clampMask.getLsbD i =
    !(decide (28 ≤ i % 32) || (decide (32 ≤ i) && decide (i % 32 < 2))) := by
  decide

theorem getLsbD_clampedR (otk : Otk) {i : Nat} (hi : i < 128) : (clampedR otk).getLsbD i =
    ((leNat (otk.toList.take 16)).testBit i &&
      !(decide (28 ≤ i % 32) || (decide (32 ≤ i) && decide (i % 32 < 2)))) := by
  rw [clampedR, memRead_zero, BitVec.getLsbD_and, getLsbD_clampMask i hi, BitVec.getLsbD_ofNat, decide_eq_true hi,
    Bool.true_and]

/-- Settles O34: `clampedR` bit by bit, `secondHalf` as an integer. -/
theorem clampLoadsOneTimeKey : Obligations.ClampLoadsOneTimeKey := by
  intro otk s h
  exact ⟨_, exec_p1305Clamp h otk, delivered_deliver _ _ _, fun i hi => getLsbD_clampedR otk hi, secondHalf_toNat otk,
    rfl, rfl⟩

/-- Settles O38: in both cases the accumulator is 0 after the blocks (`absorbAll_zero` for a clamped r of zero), and
`polyTag_zero` is its tag. -/
theorem macCornerCases : Obligations.MacCornerCases := by
  intro otk msg s h hcase
  have hzero : absorbAll (clampedR otk) (blocksOf 16 msg) = 0 := by
    rcases hcase with rfl | hr
    · rw [blocksOf_nil 16 (by decide)]
      rfl
    · rw [hr, absorbAll_zero]
  refine ⟨_, exec_p1305Mac h otk msg, ?_⟩
  rw [State.deliver_bus, Scratch.mac_eq, hzero, polyTag_zero]

/-! ### The derived nonce -/

theorem exec_aeadNonce {s : State} (h : Running s) (pre : Nonce) (seq : BitVec 64) :
    exec (.aeadNonce pre seq) s = .next (s.deliver s.scratch (some (.bytes (deriveNonce pre seq).toList))) :=
  perform_of_running h rfl _

theorem deriveNonce_getElem (pre : Nonce) (seq : BitVec 64) (i : Nat) (hi : i < 12) :
    (deriveNonce pre seq)[i] = pre[i] ^^^ (seqField seq)[i] := by
  rw [deriveNonce, xorVec, getElem_vecOf]
  simp [xorBytes]

theorem seqField_getElem_low (seq : BitVec 64) (i : Nat) (hi : i < 4) : (seqField seq)[i] = 0 := by
  rw [seqField, getElem_vecOf, List.getElem_append_left (by simp [hi])]
  exact List.getElem_replicate _

/-- Byte `4 + j` of the sequence field is byte `7 − j` of the sequence number (30_encoding R89). -/
theorem seqField_getElem_high (seq : BitVec 64) (j : Nat) (hj : j < 8) :
    (seqField seq)[4 + j] = seq.extractLsb' (8 * (7 - j)) 8 := by
  rw [seqField, getElem_vecOf, List.getElem_append_right (by simp)]
  simp only [toBE, zeros_length, List.getElem_reverse, toLE_length]
  rw [toLE_getElem _ _ _ (by omega), show 8 - 1 - (4 + j - 4) = 7 - j by omega, show (256 : Nat) = 2 ^ 8 from rfl,
    ← Nat.pow_mul, ← Nat.shiftRight_eq_div_pow]
  rfl

/-- Settles O41: byte by byte, `deriveNonce_getElem` and the two halves of the sequence field. -/
theorem nonceDerivation : Obligations.NonceDerivation := by
  intro pre seq s h
  refine ⟨_, deriveNonce pre seq, exec_aeadNonce h pre seq, delivered_deliver _ _ _, rfl, fun i hi => ?low,
    fun j hj => ?high⟩
  case low =>
    rw [deriveNonce_getElem pre seq i (by omega), seqField_getElem_low seq i hi]
    exact BitVec.xor_zero
  case high => rw [deriveNonce_getElem pre seq (4 + j) (by omega), seqField_getElem_high seq j hj]

theorem seqField_injective {q q' : BitVec 64} (h : seqField q = seqField q') : q = q' := by
  have hlist := congrArg Vector.toList h
  simp only [seqField, toList_vecOf, toBE] at hlist
  have hle := congrArg leNat (List.reverse_injective (List.append_cancel_left hlist))
  simp only [leNat_toLE] at hle
  exact BitVec.eq_of_toNat_eq (by omega)

theorem deriveNonce_injective {pre : Nonce} {q q' : BitVec 64} (h : deriveNonce pre q = deriveNonce pre q') :
    q = q' := by
  apply seqField_injective
  apply Vector.ext
  intro i hi
  have hbyte := congrArg (·[i]) h
  simp only [deriveNonce_getElem] at hbyte
  exact (BitVec.xor_right_inj _).mp hbyte

/-- What an AEAD_NONCE that leads on has put on the bus. -/
theorem bus_of_exec_aeadNonce {pre : Nonce} {q : BitVec 64} {s t : State} (e : exec (.aeadNonce pre q) s = .next t) :
    t.bus = some (.bytes (deriveNonce pre q).toList) := by
  obtain ⟨h, -⟩ := running_of_exec_next e
  cases e.symm.trans (exec_aeadNonce h pre q)
  rfl

/-- Settles O42: the nonce determines the sequence field, and this the sequence number. -/
theorem nonceNeverRepeats : Obligations.NonceNeverRepeats := by
  intro pre q q' s t s' t' e e' hbus
  rw [bus_of_exec_aeadNonce e, bus_of_exec_aeadNonce e'] at hbus
  apply deriveNonce_injective
  simpa [Vector.toList_inj] using hbus

/-! ### The authenticated byte string -/

theorem leNat_toLE_eight {n : Nat} (h : n < 2 ^ 64) : leNat (toLE n 8) = n := by
  rw [leNat_toLE]
  exact Nat.mod_eq_of_lt h

theorem lt_of_le_maxAad {n : Nat} (h : n ≤ Config.maxAad) : n < 2 ^ 64 := by
  unfold Config.maxAad at h
  omega

theorem lt_of_le_maxMsg {n : Nat} (h : n ≤ Config.maxMsg) : n < 2 ^ 64 := by
  unfold Config.maxMsg at h
  omega

/-- Settles O44: `macData` is the layout of R193, and both lengths fit their eight bytes. -/
theorem macDataLayout : Obligations.MacDataLayout := by
  intro aad ct s h ha hc
  refine ⟨_, toLE aad.length 8, toLE ct.length 8, macData aad ct, exec_aeadMacdata h ha hc, delivered_deliver _ _ _,
    rfl, rfl, toLE_length _ _, leNat_toLE_eight (lt_of_le_maxAad ha), toLE_length _ _,
    leNat_toLE_eight (lt_of_le_maxMsg hc), macData_aligned aad ct, ?_⟩
  rw [macData_length]
  omega

/-- The lengths at its end determine how the authenticated byte string is split. -/
theorem macData_injective {aad ct aad' ct' : Bytes} (ha : aad.length < 2 ^ 64) (hc : ct.length < 2 ^ 64)
    (ha' : aad'.length < 2 ^ 64) (hc' : ct'.length < 2 ^ 64) (h : macData aad ct = macData aad' ct') :
    aad = aad' ∧ ct = ct' := by
  unfold macData at h
  obtain ⟨h, hlc⟩ := List.append_inj' h (by simp [toLE_length])
  obtain ⟨h, hla⟩ := List.append_inj' h (by simp [toLE_length])
  have lengthA : aad.length = aad'.length := by rw [← leNat_toLE_eight ha, hla, leNat_toLE_eight ha']
  have lengthC : ct.length = ct'.length := by rw [← leNat_toLE_eight hc, hlc, leNat_toLE_eight hc']
  obtain ⟨h, -⟩ := List.append_inj' h (by simp [lengthC])
  obtain ⟨h, hct⟩ := List.append_inj' h lengthC
  obtain ⟨haad, -⟩ := List.append_inj' h (by simp [lengthA])
  exact ⟨haad, hct⟩

/-- What an AEAD_MACDATA that leads on has put on the bus, from operands whose lengths fit their eight bytes. -/
theorem bus_of_exec_aeadMacdata {aad ct : Bytes} {s t : State} (e : exec (.aeadMacdata aad ct) s = .next t) :
    aad.length < 2 ^ 64 ∧ ct.length < 2 ^ 64 ∧ t.bus = some (.bytes (macData aad ct)) := by
  obtain ⟨h, hw⟩ := running_of_exec_next e
  obtain ⟨ha, hc⟩ := Bool.and_eq_true_iff.mp hw
  have ha := of_decide_eq_true ha
  have hc := of_decide_eq_true hc
  cases e.symm.trans (exec_aeadMacdata h ha hc)
  exact ⟨lt_of_le_maxAad ha, lt_of_le_maxMsg hc, rfl⟩

/-- Settles O45: what is on the bus determines both operands, `macData_injective`. -/
theorem macDataInjective : Obligations.MacDataInjective := by
  intro aad ct aad' ct' s t s' t' e e' hbus
  obtain ⟨ha, hc, hb⟩ := bus_of_exec_aeadMacdata e
  obtain ⟨ha', hc', hb'⟩ := bus_of_exec_aeadMacdata e'
  rw [hb, hb'] at hbus
  exact macData_injective ha hc ha' hc' (by simpa using hbus)

end Sys2Proof.Proofs
end

section
/-! PROOFS. SEAL and OPEN (43_aead): what they return for operands within their bounds, the laws that connect them, and
the composite commands beside their micro-operations. -/

namespace Sys2Proof.Proofs

open Sys2Proof Sys2Proof.Machine Sys2Proof.Safety

/-! ### Operands in their domains -/

theorem sealRecord_wellFormed {aad : Bytes} (ha : aad.length ≤ Config.maxAad) (seq : BitVec 64) (pt : Bytes) :
    (Instr.sealRecord seq aad pt).wellFormed = true :=
  decide_eq_true ha

theorem openRecord_wellFormed {aad ctt : Bytes} {dst : Option Bytes} (ha : aad.length ≤ Config.maxAad)
    (hd : destinationInDomain dst ctt = true) (seq : BitVec 64) :
    (Instr.openRecord seq dst aad ctt).wellFormed = true :=
  Bool.and_eq_true_iff.mpr ⟨decide_eq_true ha, hd⟩

theorem destinationInDomain_of_short {ctt : Bytes} (short : ctt.length < 16) (dst : Option Bytes) :
    destinationInDomain dst ctt = true := by
  simp [destinationInDomain, short]

/-- The destination is null or exactly as long as the ciphertext (20_memory R51). -/
abbrev DestinationFits (dst : Option Bytes) (ct : Bytes) : Prop := ∀ d, dst = some d → d.length = ct.length

theorem destinationInDomain_append {dst : Option Bytes} {ct : Bytes} (hd : DestinationFits dst ct) (tag : Tag) :
    destinationInDomain dst (ct ++ tag.toList) = true := by
  cases dst with
  | none => simp [destinationInDomain]
  | some d => simp [destinationInDomain, hd d rfl]

/-! ### SEAL -/

/-- Settles O48: SEAL's rule; `sealResponse` is the response of R200. -/
theorem sealResult : Obligations.SealResult := by
  intro seq aad pt s h hv ha hp
  exact ⟨_, _, rfl, exec_sealRecord_of_within h hv (sealRecord_wellFormed ha seq pt) hp, ⟨rfl, rfl⟩, replied_reply s _⟩

/-- Settles O49: the rules of SEAL and of OPEN past MAX_MSG. -/
theorem overlongRecordFaults : Obligations.OverlongRecordFaults := by
  intro seq dst aad x s h hv ha
  refine ⟨fun overlong => ⟨_, ?sealRecord, overflowed_takeCounterOverflow s⟩,
    fun overlong hd => ⟨_, ?openRecord, overflowed_takeCounterOverflow s⟩⟩
  case sealRecord => exact exec_sealRecord_of_overlong h hv (sealRecord_wellFormed ha seq x) overlong
  case openRecord => exact exec_openRecord_of_overlong h hv (openRecord_wellFormed ha hd seq) overlong

/-- Settles O50: `sealResponse` takes nothing from the state but its context. -/
theorem sealIsDeterministic : Obligations.SealIsDeterministic := by
  intro seq aad pt s s' t h h' hctx e running
  obtain ⟨-, hw, hv, ⟨-, rfl⟩ | ⟨within, rfl⟩⟩ := exec_sealRecord_next_cases e
  · exact absurd running (not_running_takeCounterOverflow s)
  · refine ⟨_, sealResponse s.ctx seq aad pt, exec_sealRecord_of_within h' (hctx ▸ hv) hw within, rfl, ?_⟩
    rw [hctx, State.reply_responses]

/-! ### OPEN of a ciphertext followed by a tag -/

theorem not_short_append (ct : Bytes) (tag : Tag) : ¬ (ct ++ tag.toList).length < 16 := by simp

theorem drop_append_tag (ct : Bytes) (tag : Tag) :
    (ct ++ tag.toList).drop ((ct ++ tag.toList).length - 16) = tag.toList := by
  simp

theorem exec_openRecord_append {s : State} (h : Running s) (hv : s.ctx.valid = true) (seq : BitVec 64)
    {dst : Option Bytes} {aad ct : Bytes} (ha : aad.length ≤ Config.maxAad) (hc : ct.length ≤ Config.maxMsg)
    (hd : DestinationFits dst ct) (tag : Tag) : exec (.openRecord seq dst aad (ct ++ tag.toList)) s =
      .next (s.reply (openResponse s.ctx seq dst aad (ct ++ tag.toList))) :=
  exec_openRecord_of_within h hv (openRecord_wellFormed ha (destinationInDomain_append hd tag) seq) (by simpa using hc)

section
variable {c : CtxSlot} {seq : BitVec 64} {dst : Option Bytes} {aad ct : Bytes} {tag : Tag}

theorem openResponse_append_right (ht : tag = recordTag c.key (deriveNonce c.pre seq) aad ct) :
    openResponse c seq dst aad (ct ++ tag.toList) =
      { result := .ok, output := some (keystreamMask c.key (deriveNonce c.pre seq) 1 ct)
        buffer := some (memWrite (openBuffer dst (ct ++ tag.toList)) 0
          (keystreamMask c.key (deriveNonce c.pre seq) 1 ct)) } := by
  rw [openResponse_of_tag_right (not_short_append ct tag) (by rw [drop_append_tag, ciphertextOf_append, ht]),
    ciphertextOf_append]

theorem openResponse_append_wrong (ht : tag ≠ recordTag c.key (deriveNonce c.pre seq) aad ct) :
    openResponse c seq dst aad (ct ++ tag.toList) =
      { result := .authenticationFailure, output := none
        buffer := some (failedBuffer Config.openFailDst dst (ct ++ tag.toList)) } :=
  openResponse_of_tag_wrong (not_short_append ct tag) (by
    rw [drop_append_tag, ciphertextOf_append]
    exact fun e => ht (Vector.toList_inj.mp e))

end

/-- Settles O52: OPEN's rule with the right tag, and its buffer in both forms. -/
theorem openAccepts : Obligations.OpenAccepts := by
  intro seq dst aad ct tag s h hv ha hc hd ht
  refine ⟨_, _, rfl, exec_openRecord_append h hv seq ha hc hd tag, ⟨rfl, rfl⟩, ?_⟩
  rw [openResponse_append_right ht]
  have hlen := keystreamMask_length s.ctx.key (deriveNonce s.ctx.pre seq) 1 ct
  cases dst with
  | none =>
    rw [openBuffer, Option.getD_none, memWrite_zero _ _ (by simp [hlen]), hlen, List.drop_left]
    exact replied_reply s _
  | some d =>
    have hdl := hd d rfl
    rw [openBuffer, Option.getD_some, memWrite_zero _ _ (by omega), hlen, ← hdl, List.drop_length, List.append_nil]
    exact replied_reply s _

/-- Both values of OPEN_FAIL_DST: the buffer as it was, or zeros over the length of the ciphertext (43_aead R205). -/
theorem failedBuffer_cases (choice : OpenFailDst) {dst : Option Bytes} {ctt : Bytes} {n : Nat}
    (hn : ctt.length - 16 = n) (hle : n ≤ (dst.getD ctt).length) :
    failedBuffer choice dst ctt = dst.getD ctt ∨
      failedBuffer choice dst ctt = List.replicate n 0 ++ (dst.getD ctt).drop n := by
  cases choice with
  | untouched => exact .inl rfl
  | zeroed =>
    refine .inr ?_
    rw [failedBuffer, openBuffer, hn, memWrite_zero _ _ (by rwa [zeros_length]), zeros_length, zeros]

/-- Settles O53: OPEN's rule with a wrong tag, and its buffer by `failedBuffer_cases`. -/
theorem openRejects : Obligations.OpenRejects := by
  intro seq dst aad ct tag s h hv ha hc hd ht
  refine ⟨_, failedBuffer Config.openFailDst dst (ct ++ tag.toList), exec_openRecord_append h hv seq ha hc hd tag,
    ⟨rfl, rfl⟩, ?replied, failedBuffer_cases _ (by simp) ?fits⟩
  case replied =>
    rw [openResponse_append_wrong ht]
    exact replied_reply s _
  case fits =>
    cases dst with
    | none => simp
    | some d => exact (hd d rfl).ge

/-! ### What OPEN gives out -/

/-- An OPEN that answers with a response was within MAX_MSG, and the response is that of R203. -/
theorem response_of_exec_openRecord {seq : BitVec 64} {dst : Option Bytes} {aad ctt : Bytes} {s t : State}
    {r : Response} (e : exec (.openRecord seq dst aad ctt) s = .next t) (hr : t.responses = s.responses ++ [r]) :
    Running s ∧ (Instr.openRecord seq dst aad ctt).wellFormed = true ∧ s.ctx.valid = true ∧
      ctt.length - 16 ≤ Config.maxMsg ∧ r = openResponse s.ctx seq dst aad ctt := by
  obtain ⟨h, hw, hv, ⟨-, rfl⟩ | ⟨within, rfl⟩⟩ := exec_openRecord_next_cases e
  · simp at hr
  · obtain rfl : openResponse s.ctx seq dst aad ctt = r := by simpa using hr
    exact ⟨h, hw, hv, within, rfl⟩

/-- Only the branch behind a matching tag has an output. -/
theorem openResponse_output_eq_some {c : CtxSlot} {seq : BitVec 64} {dst : Option Bytes} {aad ctt pt : Bytes}
    (ho : (openResponse c seq dst aad ctt).output = some pt) :
    16 ≤ ctt.length ∧ (openResponse c seq dst aad ctt).result = .ok ∧
      ctt.drop (ctt.length - 16) = (recordTag c.key (deriveNonce c.pre seq) aad (ciphertextOf ctt)).toList ∧
      pt = keystreamMask c.key (deriveNonce c.pre seq) 1 (ciphertextOf ctt) := by
  by_cases short : ctt.length < 16
  · rw [openResponse_of_short short] at ho
    cases ho
  by_cases tagRight : ctt.drop (ctt.length - 16) =
      (recordTag c.key (deriveNonce c.pre seq) aad (ciphertextOf ctt)).toList
  · rw [openResponse_of_tag_right short tagRight] at ho ⊢
    exact ⟨Nat.le_of_not_lt short, rfl, tagRight, (Option.some.inj ho).symm⟩
  · rw [openResponse_of_tag_wrong short tagRight] at ho
    cases ho

/-- Settles O54: `openResponse_output_eq_some`. -/
theorem openReleasesOnlyVerifiedPlaintext : Obligations.OpenReleasesOnlyVerifiedPlaintext := by
  intro seq dst aad ctt pt s t r e hr ho
  obtain ⟨-, -, -, -, rfl⟩ := response_of_exec_openRecord e hr
  rw [← ciphertextOf_eq]
  exact openResponse_output_eq_some ho

/-- The result and the output of OPEN do not depend on the form of its destination (20_memory section 3). -/
theorem openResponse_destination (c : CtxSlot) (seq : BitVec 64) (dst dst' : Option Bytes) (aad ctt : Bytes) :
    (openResponse c seq dst aad ctt).result = (openResponse c seq dst' aad ctt).result ∧
      (openResponse c seq dst aad ctt).output = (openResponse c seq dst' aad ctt).output := by
  by_cases short : ctt.length < 16
  · rw [openResponse_of_short short, openResponse_of_short short]
    exact ⟨rfl, rfl⟩
  by_cases tagRight : ctt.drop (ctt.length - 16) =
      (recordTag c.key (deriveNonce c.pre seq) aad (ciphertextOf ctt)).toList
  · rw [openResponse_of_tag_right short tagRight, openResponse_of_tag_right short tagRight]
    exact ⟨rfl, rfl⟩
  · rw [openResponse_of_tag_wrong short tagRight, openResponse_of_tag_wrong short tagRight]
    exact ⟨rfl, rfl⟩

/-- Settles O57: with either form the response is `openResponse`, and `openResponse_destination` compares the two. -/
theorem inPlaceAndSeparateAgree : Obligations.InPlaceAndSeparateAgree := by
  intro seq aad ctt d s t r e hr hd
  obtain ⟨h, hw, hv, within, rfl⟩ := response_of_exec_openRecord e hr
  have ha := of_decide_eq_true (Bool.and_eq_true_iff.mp hw).1
  exact ⟨_, _, exec_openRecord_of_within h hv (openRecord_wellFormed ha hd seq) within, rfl,
    openResponse_destination s.ctx seq (some d) none aad ctt⟩

/-! ### The laws that connect SEAL and OPEN -/

/-- Settles O55: the sealed record carries the right tag of a ciphertext as long as the plaintext, and unmasking it
gives the plaintext back. -/
theorem sealThenOpenReturnsPlaintext : Obligations.SealThenOpenReturnsPlaintext := by
  intro seq dst aad pt s s' h h' hv hctx ha hp hd
  have hlen := keystreamMask_length s.ctx.key (deriveNonce s.ctx.pre seq) 1 pt
  have hopen := exec_openRecord_append h' (hctx ▸ hv) seq ha (hlen.le.trans hp) (fun d e => (hd d e).trans hlen.symm)
    (recordTag s.ctx.key (deriveNonce s.ctx.pre seq) aad (keystreamMask s.ctx.key (deriveNonce s.ctx.pre seq) 1 pt))
  rw [hctx, openResponse_append_right rfl, keystreamMask_involution] at hopen
  exact ⟨_, _, _, _, exec_sealRecord_of_within h hv (sealRecord_wellFormed ha seq pt) hp, replied_reply s _, hopen,
    replied_reply s' _⟩

/-- Settles O56: the tag of a sealed record is the right one of its ciphertext, so every other tag is wrong. -/
theorem changedTagFailsToOpen : Obligations.ChangedTagFailsToOpen := by
  intro seq aad pt ct tag tag' s t s' e hr h' hctx hne
  obtain ⟨-, hw, hv, ⟨-, rfl⟩ | ⟨within, rfl⟩⟩ := exec_sealRecord_next_cases e
  · simp at hr
  · have hout := congrArg Response.output (List.singleton_inj.mp (List.append_cancel_left hr))
    obtain ⟨rfl, htag⟩ := List.append_inj' (Option.some.inj hout) (by simp)
    obtain rfl := Vector.toList_inj.mp htag
    have hlen := keystreamMask_length s.ctx.key (deriveNonce s.ctx.pre seq) 1 pt
    have hopen := exec_openRecord_append h' (hctx ▸ hv) seq (dst := none) (of_decide_eq_true hw) (hlen.le.trans within)
      nofun tag'
    rw [hctx, openResponse_append_wrong hne] at hopen
    exact ⟨_, _, hopen, replied_reply s' _⟩

/-! ### The composite commands as expansions (30_encoding section 2) -/

/-- KS_XOR by itself, from counter 1 on, as SEAL and OPEN use it. -/
theorem exec_ksXor_within_maxMsg {s : State} (h : Running s) (key : Key) (nonce : Nonce) {data : Bytes}
    (hd : data.length ≤ Config.maxMsg) : ∃ sc, exec (.ksXor key nonce 1 data) s =
      .next (s.deliver sc (some (.bytes (keystreamMask key nonce 1 data)))) := by
  obtain ⟨-, sc, e, -⟩ | ⟨past, -⟩ := exec_ksXor_cases h key nonce 1 data
  · exact ⟨sc, e⟩
  · have e1 : (1 : Word).toNat = 1 := rfl
    unfold Config.maxMsg at hd
    unfold blocksNeeded at past
    omega

/-- Settles O58: each command's rule beside the rules of its micro-operations. -/
theorem compositeCommandsAreTheirExpansions : Obligations.CompositeCommandsAreTheirExpansions := by
  intro s h
  refine ⟨?sealRecord, ?openShort, ?openRecord, ?ksgNext⟩
  case sealRecord =>
    intro seq aad pt hv ha hp
    have hlen := keystreamMask_length s.ctx.key (deriveNonce s.ctx.pre seq) 1 pt
    obtain ⟨sc, hmask⟩ := exec_ksXor_within_maxMsg
      (running_deliver h s.scratch (some (.bytes (deriveNonce s.ctx.pre seq).toList))) s.ctx.key
      (deriveNonce s.ctx.pre seq) hp
    exact ⟨_, _, recordTag s.ctx.key (deriveNonce s.ctx.pre seq) aad _, _, _, _, _, exec_aeadNonce h _ _, rfl, hmask,
      rfl, exec_aeadTag (running_deliver (running_deliver h _ _) _ _) _ _ ha (hlen.le.trans hp), by simp,
      exec_sealRecord_of_within h hv (sealRecord_wellFormed ha seq pt) hp, replied_reply s _⟩
  case openShort =>
    intro seq dst aad short hv ha hs
    exact ⟨_, _, exec_openRecord_of_short h hv (openRecord_wellFormed ha (destinationInDomain_of_short hs dst) seq) hs,
      replied_reply s _, rfl, rfl⟩
  case openRecord =>
    intro seq dst aad ct received hv ha hc hd
    refine ⟨deriveNonce s.ctx.pre seq, recordTag s.ctx.key (deriveNonce s.ctx.pre seq) aad ct, _, _, _, _, _, _,
      exec_aeadNonce h _ _, rfl, exec_aeadTag (running_deliver h _ _) _ _ ha hc, by simp,
      exec_tagEq (running_deliver (running_deliver h _ _) _ _) _ received, rfl,
      exec_openRecord_append h hv seq ha hc hd received, replied_reply s _, ?wrong, ?right⟩
    case wrong =>
      intro hne
      rw [openResponse_append_wrong (fun e => of_decide_eq_false hne e.symm)]
      exact ⟨rfl, rfl⟩
    case right =>
      intro heq
      rw [openResponse_append_right (of_decide_eq_true heq).symm]
      obtain ⟨sc, hmask⟩ := exec_ksXor_within_maxMsg
        (running_deliver (running_deliver (running_deliver h _ _) _ _) _ _) s.ctx.key (deriveNonce s.ctx.pre seq) hc
      exact ⟨_, _, hmask, rfl, rfl, rfl⟩
  case ksgNext =>
    intro hv ho
    exact ⟨_, _, _, exec_cc20Block h _ _ _, rfl, exec_ksgNext_of_not_ovf h hv ho, replied_reply_withSlots s _ _ _,
      nextGenerator_counter ho⟩

end Sys2Proof.Proofs
end
